-- ==== Sys2Proof/Word.lean ====
section
/-! DEFINITION. The word types of the block: every quantity is an unsigned bit vector (00_scope.md section 6). -/

namespace Sys2Proof

/-- `u4`: a nibble, quantized or permuted (00_scope.md glossary). -/
abbrev Nibble := BitVec 4

/-- `u8`: a channel value, a subcarrier byte, an opcode, a selector. -/
abbrev Byte := BitVec 8

/-- `u16`: a coordinate or a dimension (R6 `DIM_BITS`), or the code point of a glyph. -/
abbrev U16 := BitVec 16

/-- `u32`: an operand field, a code point operand, a pixel cell, the data of a response. -/
abbrev U32 := BitVec 32

/-- `u40`: a command word or a response word (R6 `WORD_BITS`, R40, R43). -/
abbrev U40 := BitVec 40

end Sys2Proof
end

