-- ==== Sys2Proof/Syntax.lean ====
section
/-! DEFINITION. The sixteen commands of the block (R44), one constructor for each row of spec/opcode_table.json. The spec
calls an instruction a command (R1): one word accepted on the command port. -/

namespace Sys2Proof

/-- A command with its operands; every operand is an unsigned field copied from `arg` (R42). -/
inductive Instr where
  /-- `NOP` (R120). -/
  | nop
  /-- `STAT_RD sel` (R121). -/
  | statRd (sel : Byte)
  /-- `PFWD n` (R62). -/
  | pfwd (n : Nibble)
  /-- `PBACK n` (R63). -/
  | pback (n : Nibble)
  /-- `QUANT v` (R64). -/
  | quant (v : Byte)
  /-- `DEQUANT n` (R65). -/
  | dequant (n : Nibble)
  /-- `MIX r, g, b, a` (R71). -/
  | mix (r g b a : Byte)
  /-- `PACK n1, n2` (R77). -/
  | pack (n1 n2 : Nibble)
  /-- `UNPACK cp` (R79). -/
  | unpack (cp : U32)
  /-- `ENC_START w, h` (R102). -/
  | encStart (w h : U16)
  /-- `ENC_PIX r, g, b, a` (R87). -/
  | encPix (r g b a : Byte)
  /-- `DEC_START` (R105). -/
  | decStart
  /-- `DEC_CHAR cp` (R90). -/
  | decChar (cp : U32)
  /-- `DEC_BREAK` (R91). -/
  | decBreak
  /-- `DEC_END` (R107). -/
  | decEnd
  /-- `GRID_RD x, y` (R109). -/
  | gridRd (x y : U16)
  deriving DecidableEq, Repr

/-- The command's mnemonic, as R44 and spec/opcode_table.json spell it. -/
def Instr.mnemonic : Instr → String
  | .nop => "NOP"
  | .statRd _ => "STAT_RD"
  | .pfwd _ => "PFWD"
  | .pback _ => "PBACK"
  | .quant _ => "QUANT"
  | .dequant _ => "DEQUANT"
  | .mix _ _ _ _ => "MIX"
  | .pack _ _ => "PACK"
  | .unpack _ => "UNPACK"
  | .encStart _ _ => "ENC_START"
  | .encPix _ _ _ _ => "ENC_PIX"
  | .decStart => "DEC_START"
  | .decChar _ => "DEC_CHAR"
  | .decBreak => "DEC_BREAK"
  | .decEnd => "DEC_END"
  | .gridRd _ _ => "GRID_RD"

/-- The part of the block whose registers a command may touch (the column "context" of R44). -/
inductive Context where
  /-- `NOP` and the leaf commands: no register (R44). -/
  | none
  /-- `STAT_RD`: reads every register and writes none. -/
  | readsAll
  /-- `ENC_START`, `ENC_PIX`. -/
  | encoder
  /-- `DEC_START`, `DEC_CHAR`, `DEC_BREAK`, `DEC_END`, `GRID_RD`. -/
  | decoder
  deriving DecidableEq, Repr

/-- The context of a command (R44). -/
def Instr.context : Instr → Context
  | .nop => .none
  | .statRd _ => .readsAll
  | .pfwd _ => .none
  | .pback _ => .none
  | .quant _ => .none
  | .dequant _ => .none
  | .mix _ _ _ _ => .none
  | .pack _ _ => .none
  | .unpack _ => .none
  | .encStart _ _ => .encoder
  | .encPix _ _ _ _ => .encoder
  | .decStart => .decoder
  | .decChar _ => .decoder
  | .decBreak => .decoder
  | .decEnd => .decoder
  | .gridRd _ _ => .decoder

end Sys2Proof
end

