-- ==== Sys2Proof/WellFormed.lean ====
section
/-! DEFINITION. Which commands are legal encodings. The operand widths are in the types of `Instr`; the one check left is
the selector of `STAT_RD` (R24, R46). -/

namespace Sys2Proof

/-- `STAT_RD` has nine selectors, 0x00..0x08; the others are reserved (R24, R46, R121). -/
def selectorOk (sel : Byte) : Bool := decide (sel ≤ 0x08#8)

/-- A command that names nothing reserved. A word that decodes to a command that is not well formed raises
`IllegalCommand` when it is executed (R46, R121). -/
def Instr.wellFormed : Instr → Bool
  | .nop => true
  | .statRd sel => selectorOk sel
  | .pfwd _ => true
  | .pback _ => true
  | .quant _ => true
  | .dequant _ => true
  | .mix _ _ _ _ => true
  | .pack _ _ => true
  | .unpack _ => true
  | .encStart _ _ => true
  | .encPix _ _ _ _ => true
  | .decStart => true
  | .decChar _ => true
  | .decBreak => true
  | .decEnd => true
  | .gridRd _ _ => true

end Sys2Proof
end

