-- ==== Sys2Proof/Decode.lean ====
section
/-! DEFINITION. Decoding a 40-bit command word (R40, R41, R44, R45, R46), and the encoder written from the same tables. -/

namespace Sys2Proof

/-- Why a word selects no command. Both raise `IllegalCommand` (R45, R46). -/
inductive DecodeReject where
  /-- The `op` field is not in the table of R44 (R45). -/
  | reservedOp
  /-- The `op` is assigned, and a reserved `arg` bit of its format is set (R46). -/
  | reservedArgBits
  deriving DecidableEq, Repr

/-- `op`, bits 39:32 of the command word (R40). -/
def opField (w : U40) : Byte := w.extractLsb' 32 8

/-- `arg`, bits 31:0 of the command word (R40). -/
def argField (w : U40) : U32 := w.extractLsb' 0 32

/-- A word whose reserved `arg` bits (those set in `reserved`) must all be zero (R41, R46). -/
def requireZero (reserved arg : U32) (i : Instr) : Except DecodeReject Instr :=
  if arg &&& reserved = 0#32 then .ok i else .error .reservedArgBits

/-- Format `Z` (R41): no operand. -/
def formatZ (arg : U32) (i : Instr) : Except DecodeReject Instr :=
  requireZero 0xFFFFFFFF#32 arg i

/-- Formats `S` and `B1` (R41): one u8 operand in `arg[7:0]`. -/
def formatB1 (arg : U32) (mk : Byte → Instr) : Except DecodeReject Instr :=
  requireZero 0xFFFFFF00#32 arg (mk (arg.extractLsb' 0 8))

/-- Format `N1` (R41): one u4 operand in `arg[3:0]`. -/
def formatN1 (arg : U32) (mk : Nibble → Instr) : Except DecodeReject Instr :=
  requireZero 0xFFFFFFF0#32 arg (mk (arg.extractLsb' 0 4))

/-- Format `N2` (R41): `n1` in `arg[3:0]`, `n2` in `arg[7:4]`. -/
def formatN2 (arg : U32) (mk : Nibble → Nibble → Instr) : Except DecodeReject Instr :=
  requireZero 0xFFFFFF00#32 arg (mk (arg.extractLsb' 0 4) (arg.extractLsb' 4 4))

/-- Format `P4` (R41): `r`, `g`, `b`, `a` from the least significant byte up; nothing reserved. -/
def formatP4 (arg : U32) (mk : Byte → Byte → Byte → Byte → Instr) : Except DecodeReject Instr :=
  .ok (mk (arg.extractLsb' 0 8) (arg.extractLsb' 8 8) (arg.extractLsb' 16 8) (arg.extractLsb' 24 8))

/-- Format `W` (R41): one u32 operand; nothing reserved. -/
def formatW (arg : U32) (mk : U32 → Instr) : Except DecodeReject Instr :=
  .ok (mk arg)

/-- Format `D2` (R41): first coordinate in `arg[15:0]`, second in `arg[31:16]`; nothing reserved. -/
def formatD2 (arg : U32) (mk : U16 → U16 → Instr) : Except DecodeReject Instr :=
  .ok (mk (arg.extractLsb' 0 16) (arg.extractLsb' 16 16))

/-- The command that a word selects (R44), or why it selects none (R45, R46). -/
def decode (w : U40) : Except DecodeReject Instr :=
  let op := opField w
  let arg := argField w
  if op = 0x00#8 then formatZ arg .nop
  else if op = 0x01#8 then formatB1 arg .statRd
  else if op = 0x10#8 then formatN1 arg .pfwd
  else if op = 0x11#8 then formatN1 arg .pback
  else if op = 0x12#8 then formatB1 arg .quant
  else if op = 0x13#8 then formatN1 arg .dequant
  else if op = 0x14#8 then formatP4 arg .mix
  else if op = 0x15#8 then formatN2 arg .pack
  else if op = 0x16#8 then formatW arg .unpack
  else if op = 0x20#8 then formatD2 arg .encStart
  else if op = 0x21#8 then formatP4 arg .encPix
  else if op = 0x30#8 then formatZ arg .decStart
  else if op = 0x31#8 then formatW arg .decChar
  else if op = 0x32#8 then formatZ arg .decBreak
  else if op = 0x33#8 then formatZ arg .decEnd
  else if op = 0x34#8 then formatD2 arg .gridRd
  else .error .reservedOp

/-- The opcode of a command (R44). -/
def Instr.op : Instr → Byte
  | .nop => 0x00#8
  | .statRd _ => 0x01#8
  | .pfwd _ => 0x10#8
  | .pback _ => 0x11#8
  | .quant _ => 0x12#8
  | .dequant _ => 0x13#8
  | .mix _ _ _ _ => 0x14#8
  | .pack _ _ => 0x15#8
  | .unpack _ => 0x16#8
  | .encStart _ _ => 0x20#8
  | .encPix _ _ _ _ => 0x21#8
  | .decStart => 0x30#8
  | .decChar _ => 0x31#8
  | .decBreak => 0x32#8
  | .decEnd => 0x33#8
  | .gridRd _ _ => 0x34#8

/-- The operand field of a command, laid out by its format with its reserved bits zero (R41). -/
def Instr.arg : Instr → U32
  | .nop => 0#32
  | .statRd sel => 0#24 ++ sel
  | .pfwd n => 0#28 ++ n
  | .pback n => 0#28 ++ n
  | .quant v => 0#24 ++ v
  | .dequant n => 0#28 ++ n
  | .mix r g b a => a ++ b ++ g ++ r
  | .pack n1 n2 => 0#24 ++ n2 ++ n1
  | .unpack cp => cp
  | .encStart w h => h ++ w
  | .encPix r g b a => a ++ b ++ g ++ r
  | .decStart => 0#32
  | .decChar cp => cp
  | .decBreak => 0#32
  | .decEnd => 0#32
  | .gridRd x y => y ++ x

/-- The command word of a command: `op` in bits 39:32, `arg` in bits 31:0 (R40). -/
def encode (i : Instr) : U40 := i.op ++ i.arg

/-- The 40-bit command word that a row of spec/opcode_table.json with `nbits` bits and value `w` stands for. The port takes
whole 40-bit words and has no byte order (R34, R40), so the table's number is the word's number; a longer row is no
command word. -/
def tableWord (nbits w : Nat) : Option U40 :=
  if nbits ≤ 40 then some (BitVec.ofNat 40 (w % 2 ^ nbits)) else none

/-- What the decoder reads from a word given as spec/opcode_table.json numbers it. -/
def decodeTableWord (nbits w : Nat) : Option Instr :=
  (tableWord nbits w).bind fun c =>
    match decode c with
    | .ok i => some i
    | .error _ => none

end Sys2Proof
end

