-- ==== Sys2Proof/Config.lean ====
section
/-! DEFINITION. The implementation parameters of R6, and the free values of what the spec leaves unspecified. -/

namespace Sys2Proof

/-- `GLYPH_BASE` (R6, R50): the first code point of the glyph alphabet. -/
def Config.glyphBase : U32 := 0x2800#32

/-- `GLYPH_LAST` (R6, R50): the last code point of the glyph alphabet. -/
def Config.glyphLast : U32 := 0x28FF#32

/-- `ALPHA_DEFAULT` (R6, R94, decision D10): the alpha of every decoded pixel. -/
def Config.alphaDefault : Byte := 255#8

/-- `PAD_PIXEL` (R6, R108, decision D11) as the cell word `pix(0, 0, 0, 0)`: what a read beyond the end of a short row
answers. -/
def Config.padPixel : U32 := 0#32

/-- `ROW_TAG` (R6, decision D9): the four code points `[br]`. -/
def Config.rowTag : List U32 := [0x5B#32, 0x62#32, 0x72#32, 0x5D#32]

/-- The line break U+000A, the other row boundary of `tokenize` (R112). -/
def Config.newline : U32 := 0x0A#32

/-- `ROW_MARKER` (R6, decision D8): the text that the symbol `MARK` stands for, `[br]` then a newline. -/
def Config.rowMarker : List U32 := Config.rowTag ++ [Config.newline]

/-- `MAXW` less one. R6 leaves `MAXW` OPEN in 1..65535; nothing is known of this constant but its range
(DESIGN CHOICE, log entry 4; safe). -/
opaque Config.maxWOpen : Fin 65535

/-- `MAXH` less one, OPEN in the same way (DESIGN CHOICE, log entry 4; safe). -/
opaque Config.maxHOpen : Fin 65535

/-- `MAXW` (R6, D15): the widest row, in pixels, that the grid store of the machine at reset holds; 1..65535. -/
def Config.maxW : U16 := BitVec.ofNat 16 (Config.maxWOpen.val + 1)

/-- `MAXH` (R6, D15): the largest number of rows that the grid store of the machine at reset holds; 1..65535. -/
def Config.maxH : U16 := BitVec.ofNat 16 (Config.maxHOpen.val + 1)

/-- The free value of the cell `GRID[y][x]` while nothing has been stored in it since reset: the spec leaves it
unspecified (R22, R26, R31, U5), and no reachable state reads it (DESIGN CHOICE, log entry 5; safe). -/
opaque Config.unwrittenCell : Nat → Nat → U32

/-- The free value of `ROWLEN[y]` while nothing has been stored in it since reset: unspecified in the same way
(R21, R26, U5; DESIGN CHOICE, log entry 5; safe). -/
opaque Config.unwrittenRowLen : Nat → U16

end Sys2Proof
end

