-- ==== Sys2Proof/Machine/State.lean ====
section
/-! DEFINITION. The state of the block (R10), plain data, with its reset value (R26). -/

namespace Sys2Proof.Machine

/-- `enc_state` (R13), u1: 0 `IDLE`, 1 `ACTIVE`. -/
inductive EncState where
  | idle
  | active
  deriving DecidableEq, Repr

/-- `dec_state` (R15), u2: 0 `IDLE`, 1 `ACTIVE`, 2 `REJECT`, 3 `DONE`. -/
inductive DecState where
  | idle
  | active
  | reject
  | done
  deriving DecidableEq, Repr

/-- `dec_status` (R18), u3: 0 `OK`, 1 `InvalidGlyph`, 2 `InvalidRowLength`, 3 `EmptyInput`, 4 `GridOverflow`; the codes 5,
6 and 7 are never produced, so no name stands for them. -/
inductive DecStatus where
  | ok
  | invalidGlyph
  | invalidRowLength
  | emptyInput
  | gridOverflow
  deriving DecidableEq, Repr

/-- The three interface faults (R23, R137), by the name of their bit of `FAULT`. They are no stop of the machine: a
faulting command has a successor state like any other (R137, R161). -/
inductive IfaceFault where
  | illegalCommand
  | protocolError
  | addressError
  deriving DecidableEq, Repr

/-- The nine kinds of response (R43). -/
inductive ResponseKind where
  | val
  | err
  | mark
  | glyph
  | eot
  | decDone
  | pix
  | stat
  | fault
  deriving DecidableEq, Repr

/-- A response word (R43): its kind and its 32-bit data. -/
structure Response where
  kind : ResponseKind
  data : U32
  deriving DecidableEq, Repr

/-- A store as plain data: (address, value) pairs with strictly rising addresses (`Memory.wf`). An address that is not
listed holds no value: nothing has been stored there since reset (R31). -/
abbrev Memory (α : Type) := List (Nat × α)

/-- The encoder context (R10, R13). -/
structure EncContext where
  /-- `enc_state` -/
  state : EncState
  /-- `enc_w`: width of the grid being encoded -/
  w : U16
  /-- `enc_h`: height of the grid being encoded -/
  h : U16
  /-- `enc_x`: column of the next pixel expected -/
  x : U16
  /-- `enc_y`: row of the next pixel expected -/
  y : U16
  deriving DecidableEq, Repr

/-- The decoder context (R10, R14 to R22). -/
structure DecContext where
  /-- `dec_state` -/
  state : DecState
  /-- `dec_pending`: the first glyph of a pair has been consumed and the second has not (R16) -/
  pending : Bool
  /-- `hold_r`: the nibble `n1` of that first glyph (R16) -/
  holdR : Nibble
  /-- `hold_g`: the nibble `n2` of that first glyph (R16) -/
  holdG : Nibble
  /-- `dec_col`: complete glyph pairs in the row being parsed (R17) -/
  col : U16
  /-- `dec_row`: rows closed so far (R17) -/
  row : U16
  /-- `dec_wmax`: largest pixel count over the rows closed (R17) -/
  wmax : U16
  /-- `dec_status` (R18) -/
  status : DecStatus
  /-- `dec_w`: width of the decoded grid (R19) -/
  w : U16
  /-- `dec_h`: height of the decoded grid (R19) -/
  h : U16
  /-- `pr_cur`: the current line has a character (R20) -/
  prCur : Bool
  /-- `pr_bad`: some character was no glyph, or some line ended empty (R20) -/
  prBad : Bool
  /-- `dec_pred`: the predicate of the block (R20) -/
  pred : Bool
  /-- `ROWLEN[y]` at address `y` (R21) -/
  rowLen : Memory U16
  /-- `GRID[y][x]` at address `y * 65536 + x` (R22, R30) -/
  grid : Memory U32
  deriving DecidableEq, Repr

/-- The machine: the registers of R10, and the model's own fields for what R10 keeps outside the registers, that is the
two open parameters (log entry 4), the command stream and the response stream (log entries 1 and 2). -/
structure State where
  /-- `FAULT` (R23), u3: bit 0 `IllegalCommand`, bit 1 `ProtocolError`, bit 2 `AddressError` -/
  fault : BitVec 3
  /-- the encoder context -/
  enc : EncContext
  /-- the decoder context -/
  dec : DecContext
  /-- `MAXW` (R6): no command changes it -/
  maxW : U16
  /-- `MAXH` (R6): no command changes it -/
  maxH : U16
  /-- the command stream: words the host has issued and the block has not consumed, oldest first (R4, R37) -/
  commands : List U40
  /-- the response stream: words emitted and not drained by the host, oldest first (R4, R37, R156) -/
  responses : List Response
  deriving DecidableEq, Repr

/-- The ways in which the machine stops with a fault: none. Every word in every state has a successor state, and an
interface fault or a decode error is one like any other (R161). -/
inductive Fault where
  deriving DecidableEq, Repr

/-- The ways in which the machine refuses a command. -/
inductive Refusal where
  /-- A command that has no meaning in the model; raised by no command of this model. Safe. -/
  | notModelled (mnemonic : String)
  deriving DecidableEq, Repr

/-- What a command ends in. -/
abbrev Result := Host.Outcome State Fault Refusal

/-- The encoder context after reset (R26). -/
def EncContext.reset : EncContext where
  state := .idle
  w := 0#16
  h := 0#16
  x := 0#16
  y := 0#16

/-- The decoder context after reset (R26); `ROWLEN` and `GRID` are unspecified there, so no entry of theirs is listed. -/
def DecContext.reset : DecContext where
  state := .idle
  pending := false
  holdR := 0#4
  holdG := 0#4
  col := 0#16
  row := 0#16
  wmax := 0#16
  status := .ok
  w := 0#16
  h := 0#16
  prCur := false
  prBad := false
  pred := false
  rowLen := []
  grid := []

/-- The machine right after reset (R26, R150): the registers of R26, the response stream empty, and no command issued yet.
The capacity is the open `MAXW × MAXH` (log entry 4). -/
def State.reset : State where
  fault := 0#3
  enc := EncContext.reset
  dec := DecContext.reset
  maxW := Config.maxW
  maxH := Config.maxH
  commands := []
  responses := []

end Sys2Proof.Machine
end

