-- ==== Sys2Proof/Machine/Ops.lean ====
section
/-! DEFINITION. The shared operations: the codes of the named registers, the response stream, the command stream, the grid
store, the entry of an interface fault (`raise`) and of a decode error (`reject`), and the external reset. -/

namespace Sys2Proof.Machine

/-! ## Codes -/

/-- The value of `enc_state` (R10). -/
def EncState.code : EncState → BitVec 1
  | .idle => 0#1
  | .active => 1#1

/-- The value of `dec_state` (R15). -/
def DecState.code : DecState → BitVec 2
  | .idle => 0#2
  | .active => 1#2
  | .reject => 2#2
  | .done => 3#2

/-- The value of `dec_status` (R18, R131). -/
def DecStatus.code : DecStatus → BitVec 3
  | .ok => 0#3
  | .invalidGlyph => 1#3
  | .invalidRowLength => 2#3
  | .emptyInput => 3#3
  | .gridOverflow => 4#3

/-- `1 << bit(F)` for an interface fault `F`, the bit of `FAULT` that it sets (R23, R137). -/
def IfaceFault.mask : IfaceFault → BitVec 3
  | .illegalCommand => 1#3
  | .protocolError => 2#3
  | .addressError => 4#3

/-- The `kind` byte of a response (R43). -/
def ResponseKind.code : ResponseKind → Byte
  | .val => 0x01#8
  | .err => 0x02#8
  | .mark => 0x03#8
  | .glyph => 0x04#8
  | .eot => 0x05#8
  | .decDone => 0x06#8
  | .pix => 0x07#8
  | .stat => 0x08#8
  | .fault => 0x0F#8

/-- The 40-bit response word: `kind` in bits 39:32, `data` in bits 31:0 (R43). -/
def Response.word (r : Response) : U40 := r.kind.code ++ r.data

/-! ## The two streams -/

/-- `emit K(d)` (00_scope.md section 6): append a response to the response stream. -/
def emit (kind : ResponseKind) (data : U32) (s : State) : State :=
  { s with responses := s.responses ++ [{ kind := kind, data := data }] }

/-- Take the next command word from the command stream (R4, R37); `none` while the host has issued none. -/
def fetch (s : State) : Option (U40 × State) :=
  match s.commands with
  | [] => none
  | c :: rest => some (c, { s with commands := rest })

/-- Make `c` the very next word of the command stream. -/
def pushCommand (c : U40) (s : State) : State := { s with commands := c :: s.commands }

/-- The host issues command words (R159): they join the end of the command stream, in order. -/
def hostIssue (cs : List U40) (s : State) : State := { s with commands := s.commands ++ cs }

/-- The host drains the oldest response, if there is one (R159). -/
def hostDrain (s : State) : Option Response × State :=
  (s.responses.head?, { s with responses := s.responses.tail })

/-- The host asserts reset (R150, R151, R159): every register takes its reset value and the response stream is emptied. The
capacity is fixed at build time (R24), and the command stream is outside the block (log entry 8). -/
def hostReset (s : State) : State :=
  { State.reset with maxW := s.maxW, maxH := s.maxH, commands := s.commands }

/-! ## The grid store -/

/-- The canonical form: addresses strictly rising. No value is what an unlisted address reads as, so no entry is ever left
out for its value. -/
abbrev Memory.wf {α : Type} (m : Memory α) : Prop := m.Pairwise (fun p q => p.1 < q.1)

/-- What was last stored at address `k`, if anything was (R31). -/
def Memory.read {α : Type} : Memory α → Nat → Option α
  | [], _ => none
  | (a, v) :: rest, k => if a = k then some v else Memory.read rest k

/-- Store `v` at address `k`, keeping the canonical form. -/
def Memory.write {α : Type} : Memory α → Nat → α → Memory α
  | [], k, v => [(k, v)]
  | (a, u) :: rest, k, v =>
    if k < a then (k, v) :: (a, u) :: rest
    else if a = k then (k, v) :: rest
    else (a, u) :: Memory.write rest k v

/-- The address of cell `(y, x)` in the model's layout; R30 leaves the layout to the model. -/
def cellAddr (y x : U16) : Nat := y.toNat * 65536 + x.toNat

/-- `MemRead((y, x), 1)` (R31); `none` for a cell never written since reset. -/
def memRead (d : DecContext) (y x : U16) : Option U32 := Memory.read d.grid (cellAddr y x)

/-- `MemWrite((y, x), 1, v)` (R31). -/
def memWrite (y x : U16) (v : U32) (d : DecContext) : DecContext :=
  { d with grid := Memory.write d.grid (cellAddr y x) v }

/-- `ROWLEN[y]` (R21); `none` for an entry never written since reset. -/
def rowLenRead (d : DecContext) (y : U16) : Option U16 := Memory.read d.rowLen y.toNat

/-- `ROWLEN[y] <- n` (R92). -/
def rowLenWrite (y n : U16) (d : DecContext) : DecContext :=
  { d with rowLen := Memory.write d.rowLen y.toNat n }

/-- The cell as `GRID_RD` reads it: a cell never written holds a free value (R22, U5; log entry 5). -/
def cellAt (d : DecContext) (y x : U16) : U32 :=
  (memRead d y x).getD (Config.unwrittenCell y.toNat x.toNat)

/-- `ROWLEN[y]` as `GRID_RD` reads it: an entry never written holds a free value (R21, U5; log entry 5). -/
def rowLenAt (d : DecContext) (y : U16) : U16 :=
  (rowLenRead d y).getD (Config.unwrittenRowLen y.toNat)

/-! ## Taking an event -/

/-- `raise F` (R137): set the sticky bit of `F`, emit `R_FAULT`, and change nothing else. -/
def raise (f : IfaceFault) (s : State) : State :=
  emit .fault (f.mask.setWidth 32) { s with fault := s.fault ||| f.mask }

/-- `reject E` (R134): record the code of the decode error and move the decoder to `REJECT`. The way back is `DEC_END` and
the next `DEC_START` (R142). -/
def reject (e : DecStatus) (d : DecContext) : DecContext := { d with status := e, state := .reject }

end Sys2Proof.Machine
end

