-- ==== Sys2Proof/Machine/Operands.lean ====
section
/-! DEFINITION. The operand forms with a meaning of their own: the pixel word (R32) and the code point (R42, R50). -/

namespace Sys2Proof.Machine

/-- `pix(r, g, b, a)` (R32): red in bits 7:0, green in 15:8, blue in 23:16, alpha in 31:24. -/
def pix (r g b a : Byte) : U32 := a ++ b ++ g ++ r

/-- `in_glyph(cp)` (00_scope.md section 6): `0x2800 ≤ cp ≤ 0x28FF`, on all 32 bits of the operand (R42). -/
def inGlyph (cp : U32) : Bool := decide (Config.glyphBase ≤ cp) && decide (cp ≤ Config.glyphLast)

end Sys2Proof.Machine
end

