-- ==== Sys2Proof/Machine/Flags.lean ====
section
/-! DEFINITION. The flags: the glyph-text predicate (R20, R93), the result word of a block (R43) and the status words that
`STAT_RD` reads (R24). -/

namespace Sys2Proof.Machine

/-- `pred_char(cp)` (R93). -/
def predChar (cp : U32) (d : DecContext) : DecContext :=
  { d with prCur := true, prBad := d.prBad || !inGlyph cp }

/-- A line ends: it is bad if no character stood in it (R93, R107). -/
def predLine (d : DecContext) : DecContext := { d with prBad := d.prBad || !d.prCur }

/-- `pred_break()` (R93). -/
def predBreak (d : DecContext) : DecContext := { predLine d with prCur := false }

/-- The data of `R_DEC_DONE` (R43, R107): `dec_status` in bits 2:0, `dec_pred` in bit 4. -/
def decDoneData (d : DecContext) : U32 :=
  d.status.code.setWidth 32 ||| ((BitVec.ofBool d.pred).setWidth 32 <<< 4)

/-- `status_word(sel)` (R24), each field at its bits and every other bit 0. The selectors above 0x08 name no word, and
`STAT_RD` of one of them does not come here (R121). -/
def statusWord (sel : Byte) (s : State) : U32 :=
  if sel = 0x00#8 then s.fault.setWidth 32
  else if sel = 0x01#8 then s.enc.state.code.setWidth 32
  else if sel = 0x02#8 then s.enc.h ++ s.enc.w
  else if sel = 0x03#8 then s.enc.y ++ s.enc.x
  else if sel = 0x04#8 then s.dec.state.code.setWidth 32
  else if sel = 0x05#8 then
    0#25 ++ BitVec.ofBool s.dec.prBad ++ BitVec.ofBool s.dec.prCur ++ BitVec.ofBool s.dec.pred ++ 0#1
      ++ s.dec.status.code
  else if sel = 0x06#8 then s.dec.h ++ s.dec.w
  else if sel = 0x07#8 then s.dec.row ++ s.dec.col
  else if sel = 0x08#8 then
    s.dec.wmax ++ 0#7 ++ BitVec.ofBool s.dec.pending ++ s.dec.holdG ++ s.dec.holdR
  else 0#32

end Sys2Proof.Machine
end

