-- ==== Sys2Proof/Machine/ChannelQuantizer.lean ====
section
/-! DEFINITION. The channel_quantizer unit (40_channel_quantizer.md): bit extract and 4-bit lookup. -/

namespace Sys2Proof.Machine

/-- The table `PFWD[0..15]`, the permutation P (R60). -/
def pfwdTable : Vector Nibble 16 :=
  #v[0#4, 1#4, 2#4, 8#4, 3#4, 6#4, 9#4, 13#4, 4#4, 5#4, 7#4, 12#4, 10#4, 11#4, 14#4, 15#4]

/-- The table `PBACK[0..15]`, the inverse of P (R61). -/
def pbackTable : Vector Nibble 16 :=
  #v[0#4, 1#4, 2#4, 4#4, 8#4, 9#4, 5#4, 10#4, 3#4, 6#4, 12#4, 13#4, 11#4, 7#4, 14#4, 15#4]

/-- `PFWD[n]` (R60). -/
def pfwd (n : Nibble) : Nibble := pfwdTable[n.toNat]'n.isLt

/-- `PBACK[n]` (R61). -/
def pback (n : Nibble) : Nibble := pbackTable[n.toNat]'n.isLt

/-- `quantize(v) = PFWD[v[6:3]]` (R64). -/
def quantize (v : Byte) : Nibble := pfwd (v.extractLsb' 3 4)

/-- `dequantize(n) = PBACK[n] << 3` at 8 bits (R65). -/
def dequantize (n : Nibble) : Byte := 0#1 ++ pback n ++ 0#3

/-- `PFWD n` (R62). -/
def execPfwd (n : Nibble) (s : State) : Result := .next (emit .val ((pfwd n).setWidth 32) s)

/-- `PBACK n` (R63). -/
def execPback (n : Nibble) (s : State) : Result := .next (emit .val ((pback n).setWidth 32) s)

/-- `QUANT v` (R64). -/
def execQuant (v : Byte) (s : State) : Result := .next (emit .val ((quantize v).setWidth 32) s)

/-- `DEQUANT n` (R65). -/
def execDequant (n : Nibble) (s : State) : Result := .next (emit .val ((dequantize n).setWidth 32) s)

end Sys2Proof.Machine
end

