-- ==== Sys2Proof/Machine/GlyphPacker.lean ====
section
/-! DEFINITION. The glyph_packer unit (42_glyph_packer.md): the bit interleave of R50. -/

namespace Sys2Proof.Machine

/-- `pack(n1, n2)` (R75): the code point of the glyph that carries the two nibbles. -/
def packGlyph (n1 n2 : Nibble) : U16 :=
  0x28#8 ++ n2.extractLsb' 3 1 ++ n1.extractLsb' 3 1 ++ n2.extractLsb' 0 3 ++ n1.extractLsb' 0 3

/-- `unpack(cp)` (R78, decision D26): the two nibbles, or the failure `InvalidGlyph`. -/
def unpackGlyph (cp : U32) : Option (Nibble × Nibble) :=
  if inGlyph cp then
    some (cp.extractLsb' 6 1 ++ cp.extractLsb' 0 3, cp.extractLsb' 7 1 ++ cp.extractLsb' 3 3)
  else none

/-- `PACK n1, n2` (R77). -/
def execPack (n1 n2 : Nibble) (s : State) : Result :=
  .next (emit .val ((packGlyph n1 n2).setWidth 32) s)

/-- `UNPACK cp` (R79): an operand outside the alphabet is answered by `R_ERR(1)` and touches no register. -/
def execUnpack (cp : U32) (s : State) : Result :=
  match unpackGlyph cp with
  | none => .next (emit .err (DecStatus.invalidGlyph.code.setWidth 32) s)
  | some (n1, n2) => .next (emit .val ((n2 ++ n1).setWidth 32) s)

end Sys2Proof.Machine
end

