-- ==== Sys2Proof/Machine/SubcarrierMixer.lean ====
section
/-! DEFINITION. The subcarrier_mixer unit (41_subcarrier_mixer.md). It has no inverse in the block (R72). -/

namespace Sys2Proof.Machine

/-- `mix(r, g, b, a)` (R70, R71): bit 7 of red, green, blue and alpha in bits 6, 5, 4 and 3. -/
def subcarrier (r g b a : Byte) : Byte :=
  0#1 ++ r.extractLsb' 7 1 ++ g.extractLsb' 7 1 ++ b.extractLsb' 7 1 ++ a.extractLsb' 7 1 ++ 0#3

/-- `MIX r, g, b, a` (R71). -/
def execMix (r g b a : Byte) (s : State) : Result :=
  .next (emit .val ((subcarrier r g b a).setWidth 32) s)

end Sys2Proof.Machine
end

