-- ==== Sys2Proof/Machine/RowCodec.lean ====
section
/-! DEFINITION. The row_codec unit (43_row_codec.md), with the grid scan of R103. -/

namespace Sys2Proof.Machine

/-- `encode_pixel(r, g, b, a)` (R86). -/
def encodePixel (r g b a : Byte) : U16 × U16 :=
  (packGlyph (quantize r) (quantize g), packGlyph (quantize b) (quantize (subcarrier r g b a)))

/-- The cell word of a decoded pixel, from the permuted nibbles of red, green and blue (R89): the subcarrier nibble takes
part in nothing (R72), and alpha is the policy's (R94). -/
def decodedCell (nr ng nb : Nibble) : U32 :=
  pix (dequantize nr) (dequantize ng) (dequantize nb) Config.alphaDefault

/-- `scan_advance()` (R103); the comparison is on unbounded integers. -/
def scanAdvance (s : State) : State :=
  if s.enc.x.toNat + 1 < s.enc.w.toNat then { s with enc := { s.enc with x := s.enc.x + 1#16 } }
  else
    let y := s.enc.y + 1#16
    if y = s.enc.h then emit .eot 0#32 { s with enc := { s.enc with x := 0#16, y := y, state := .idle } }
    else { s with enc := { s.enc with x := 0#16, y := y } }

/-- The row marker before the first pixel of a row (R85, R87). -/
def emitMark (s : State) : State := if s.enc.x = 0#16 then emit .mark 0#32 s else s

/-- `ENC_PIX r, g, b, a` (R87). -/
def execEncPix (r g b a : Byte) (s : State) : Result :=
  match s.enc.state with
  | .idle => .next (raise .protocolError s)
  | .active =>
    let gs := encodePixel r g b a
    .next (scanAdvance (emit .glyph (gs.2.setWidth 32) (emit .glyph (gs.1.setWidth 32) (emitMark s))))

/-- The parse of one character in `ACTIVE`, after the predicate tracking (R90). -/
def parseChar (maxW maxH : U16) (cp : U32) (d : DecContext) : DecContext :=
  match unpackGlyph cp with
  | none => reject .invalidGlyph d
  | some (n1, n2) =>
    if d.pending then
      if maxW ≤ d.col ∨ maxH ≤ d.row then reject .gridOverflow d
      else { memWrite d.row d.col (decodedCell d.holdR d.holdG n1) d with col := d.col + 1#16, pending := false }
    else { d with holdR := n1, holdG := n2, pending := true }

/-- `DEC_CHAR cp` (R90). -/
def execDecChar (cp : U32) (s : State) : Result :=
  match s.dec.state with
  | .idle => .next (raise .protocolError s)
  | .done => .next (raise .protocolError s)
  | .reject => .next { s with dec := predChar cp s.dec }
  | .active => .next { s with dec := parseChar s.maxW s.maxH cp (predChar cp s.dec) }

/-- `close_row()` (R92). -/
def closeRow (d : DecContext) : DecContext :=
  if d.pending then reject .invalidRowLength d
  else if d.col = 0#16 then d
  else
    { rowLenWrite d.row d.col d with
        wmax := if d.wmax ≤ d.col then d.col else d.wmax
        row := d.row + 1#16
        col := 0#16 }

/-- `DEC_BREAK` (R91). -/
def execDecBreak (s : State) : Result :=
  match s.dec.state with
  | .idle => .next (raise .protocolError s)
  | .done => .next (raise .protocolError s)
  | .reject => .next { s with dec := predBreak s.dec }
  | .active => .next { s with dec := closeRow (predBreak s.dec) }

end Sys2Proof.Machine
end

