-- ==== Sys2Proof/Machine/ImageCodec.lean ====
section
/-! DEFINITION. The image_codec unit (44_image_codec.md): the brackets of an encode and of a decode, and the read port of
the decoded grid. -/

namespace Sys2Proof.Machine

/-- `ENC_START w, h` (R102). -/
def execEncStart (w h : U16) (s : State) : Result :=
  match s.enc.state with
  | .active => .next (raise .protocolError s)
  | .idle =>
    if w = 0#16 ∨ h = 0#16 then
      .next (emit .eot 0#32 { s with enc := { state := .idle, w := w, h := h, x := 0#16, y := 0#16 } })
    else .next { s with enc := { state := .active, w := w, h := h, x := 0#16, y := 0#16 } }

/-- The decoder context that `DEC_START` leaves (R105): every register cleared but `ROWLEN` and `GRID`. -/
def openBlock (d : DecContext) : DecContext :=
  { DecContext.reset with state := .active, rowLen := d.rowLen, grid := d.grid }

/-- `DEC_START` (R105). -/
def execDecStart (s : State) : Result :=
  match s.dec.state with
  | .active => .next (raise .protocolError s)
  | .reject => .next (raise .protocolError s)
  | .idle => .next { s with dec := openBlock s.dec }
  | .done => .next { s with dec := openBlock s.dec }

/-- The result of a block (R107): its dimensions when it ended in `ACTIVE` with a row, `EmptyInput` when it ended in
`ACTIVE` with none, nothing when it was rejected. -/
def blockResult (d : DecContext) : DecContext :=
  match d.state with
  | .active =>
    if d.row = 0#16 then { d with status := .emptyInput, w := 0#16, h := 0#16 }
    else { d with w := d.wmax, h := d.row }
  | .idle => { d with w := 0#16, h := 0#16 }
  | .reject => { d with w := 0#16, h := 0#16 }
  | .done => { d with w := 0#16, h := 0#16 }

/-- The finalisation of `DEC_END` (R107), after the last line and the last row have been closed. -/
def finishBlock (d : DecContext) : DecContext :=
  { blockResult { d with pred := !d.prBad } with state := .done }

/-- `DEC_END` writes its result and reports it (R107). -/
def endBlock (d : DecContext) (s : State) : State :=
  emit .decDone (decDoneData (finishBlock d)) { s with dec := finishBlock d }

/-- `DEC_END` (R107). -/
def execDecEnd (s : State) : Result :=
  match s.dec.state with
  | .idle => .next (raise .protocolError s)
  | .done => .next (raise .protocolError s)
  | .active => .next (endBlock (closeRow (predLine s.dec)) s)
  | .reject => .next (endBlock (predLine s.dec) s)

/-- The word of cell `(y, x)` of the decoded grid (R36, R108): the stored cell, or the pad beyond the end of the row. -/
def gridWord (d : DecContext) (y x : U16) : U32 :=
  if x < rowLenAt d y then cellAt d y x else Config.padPixel

/-- `GRID_RD x, y` (R109). -/
def execGridRd (x y : U16) (s : State) : Result :=
  if s.dec.state ≠ .done ∨ s.dec.status ≠ .ok then .next (raise .protocolError s)
  else if s.dec.w ≤ x ∨ s.dec.h ≤ y then .next (raise .addressError s)
  else .next (emit .pix (gridWord s.dec y x) s)

end Sys2Proof.Machine
end

