-- ==== Sys2Proof/Machine/System.lean ====
section
/-! DEFINITION. The system commands (45_system_commands.md). -/

namespace Sys2Proof.Machine

/-- `NOP` (R120). -/
def execNop (s : State) : Result := .next s

/-- `STAT_RD sel` (R121). -/
def execStatRd (sel : Byte) (s : State) : Result :=
  if selectorOk sel then .next (emit .stat (statusWord sel s) s)
  else .next (raise .illegalCommand s)

end Sys2Proof.Machine
end

