-- ==== Sys2Proof/Machine/Dispatch.lean ====
section
/-! DEFINITION. One arm for each command. -/

namespace Sys2Proof.Machine

def exec (i : Instr) (s : State) : Host.Outcome State Fault Refusal :=
  match i with
  | .nop => Sys2Proof.Machine.execNop s
  | .statRd sel => Sys2Proof.Machine.execStatRd sel s
  | .pfwd n => Sys2Proof.Machine.execPfwd n s
  | .pback n => Sys2Proof.Machine.execPback n s
  | .quant v => Sys2Proof.Machine.execQuant v s
  | .dequant n => Sys2Proof.Machine.execDequant n s
  | .mix r g b a => Sys2Proof.Machine.execMix r g b a s
  | .pack n1 n2 => Sys2Proof.Machine.execPack n1 n2 s
  | .unpack cp => Sys2Proof.Machine.execUnpack cp s
  | .encStart w h => Sys2Proof.Machine.execEncStart w h s
  | .encPix r g b a => Sys2Proof.Machine.execEncPix r g b a s
  | .decStart => Sys2Proof.Machine.execDecStart s
  | .decChar cp => Sys2Proof.Machine.execDecChar cp s
  | .decBreak => Sys2Proof.Machine.execDecBreak s
  | .decEnd => Sys2Proof.Machine.execDecEnd s
  | .gridRd x y => Sys2Proof.Machine.execGridRd x y s

end Sys2Proof.Machine
end

