-- ==== Sys2Proof/Machine/Step.lean ====
section
/-! DEFINITION. One step: one command word consumed (R4). -/

namespace Sys2Proof.Machine

/-- Consume the next command word and execute it. A word that selects no command raises `IllegalCommand` (R45, R46). While
the host has issued no word the block waits, and its state does not change (R146, R150; log entry 3). -/
def step (s : State) : Host.Outcome State Fault Refusal :=
  match fetch s with
  | none => .next s
  | some (c, s') =>
    match decode c with
    | .ok i => exec i s'
    | .error _ => .next (raise .illegalCommand s')

/-- `s` with a row's word as the next word of its command stream: the host has issued that command (log entry 7). -/
def State.withFetchWord (s : State) (nbits w : Nat) : State :=
  match tableWord nbits w with
  | none => s
  | some c => pushCommand c s

end Sys2Proof.Machine
end

