-- ==== Sys2Proof/Machine/HostSide.lean ====
section
/-! DEFINITION. The host's side of the port: symbols and text (R51), runs of command words (R160), the pseudo-commands
(R53, R110 to R113), and the functions of the source that the spec states the block's work against (R86, R96, R113). -/

namespace Sys2Proof.Machine

/-! ## Runs -/

/-- Issue one command word and let the block consume it. -/
def runWord (c : U40) (s : State) : Result := step (pushCommand c s)

/-- A run (R160): the words of a list, issued and consumed one after the other. -/
def runWords : List U40 → State → Result
  | [], s => .next s
  | c :: cs, s =>
    match runWord c s with
    | .next s' => runWords cs s'
    | .fault r => .fault r
    | .refused r => .refused r

/-- A run of assembled commands. -/
def runInstrs (is : List Instr) (s : State) : Result := runWords (is.map encode) s

/-- The responses that a run from `s` to `t` appended to the response stream. -/
def newResponses (s t : State) : List Response := t.responses.drop s.responses.length

/-! ## Symbols and text -/

/-- A pixel: the 4-tuple of its channels (R32). -/
structure Pixel where
  r : Byte
  g : Byte
  b : Byte
  a : Byte
  deriving DecidableEq, Repr

/-- The encoder's output alphabet (R51). -/
inductive OutSymbol where
  | mark
  | glyph (cp : U16)
  | eot
  deriving DecidableEq, Repr

/-- The decoder's input alphabet (R51). -/
inductive InSymbol where
  | char (cp : U32)
  | brk
  deriving DecidableEq, Repr

/-- The symbol that a response stands for; the other kinds stand for none (R43, R51). -/
def outSymbol (r : Response) : Option OutSymbol :=
  match r.kind with
  | .mark => some .mark
  | .glyph => some (.glyph (r.data.extractLsb' 0 16))
  | .eot => some .eot
  | .val => none
  | .err => none
  | .decDone => none
  | .pix => none
  | .stat => none
  | .fault => none

/-- The encoder's symbols among a list of responses, in order (R155 (d)). -/
def outSymbols (rs : List Response) : List OutSymbol := rs.filterMap outSymbol

/-- The text of one symbol (R51). `ROW_MARKER` may be taken as an argument (R6). -/
def symbolText (marker : List U32) : OutSymbol → List U32
  | .mark => marker
  | .glyph cp => [cp.setWidth 32]
  | .eot => []

/-- `serialize` (R51). -/
def serialize (marker : List U32) (syms : List OutSymbol) : List U32 := syms.flatMap (symbolText marker)

/-- `tokenize` (R112) with `skip` code points still to be passed over as the rest of a `ROW_TAG`. -/
def tokenizeFrom : Nat → List U32 → List InSymbol
  | _, [] => []
  | skip + 1, _ :: t => tokenizeFrom skip t
  | 0, c :: t =>
    if Config.rowTag.isPrefixOf (c :: t) then .brk :: tokenizeFrom (Config.rowTag.length - 1) t
    else if c = Config.newline then .brk :: tokenizeFrom 0 t
    else .char c :: tokenizeFrom 0 t

/-- `tokenize(text)` (R112): `ROW_TAG`, tried first, and U+000A each become one `BREAK`, every other code point a `CHAR`. -/
def tokenize (text : List U32) : List InSymbol := tokenizeFrom 0 text

/-! ## Pseudo-commands -/

/-- `ENC_PIX` of a pixel. -/
def pixelCommand (p : Pixel) : Instr := .encPix p.r p.g p.b p.a

/-- `ENCODE_GRID grid` (R53, R110) for a grid given by its width and its rows, top row first. -/
def encodeGrid (w : Nat) (rows : List (List Pixel)) : List Instr :=
  .encStart (BitVec.ofNat 16 w) (BitVec.ofNat 16 rows.length) :: rows.flatten.map pixelCommand

/-- The command of one symbol of a candidate block (R51). -/
def symbolCommand : InSymbol → Instr
  | .char cp => .decChar cp
  | .brk => .decBreak

/-- `DECODE_SYMS syms` (R53, R111). -/
def decodeSyms (syms : List InSymbol) : List Instr :=
  .decStart :: (syms.map symbolCommand ++ [.decEnd])

/-- `DECODE_TEXT text` (R53, R112). -/
def decodeText (text : List U32) : List Instr := decodeSyms (tokenize text)

/-- `IS_GLYPH_TEXT text` (R53, R113): the commands are those of `DECODE_TEXT`, and the result is `dec_pred`. -/
def isGlyphTextResult (t : State) : Bool := t.dec.pred

/-- `READ_GRID` (R53, R111) for a result of `w` columns and `h` rows: the dimensions, then every cell, row by row. -/
def readGrid (w h : Nat) : List Instr :=
  .statRd 0x06#8 :: (List.range h).flatMap fun y =>
    (List.range w).map fun x => .gridRd (BitVec.ofNat 16 x) (BitVec.ofNat 16 y)

/-! ## The functions of the source -/

/-- `decodeRow` (R96) on the characters of one row, the glyphs paired from the left: the cell words of its pixels, or its
error. -/
def decodeRow : List U32 → Except DecStatus (List U32)
  | [] => .ok []
  | [c] => if inGlyph c then .error .invalidRowLength else .error .invalidGlyph
  | c :: c' :: rest =>
    match unpackGlyph c, unpackGlyph c' with
    | some (nr, ng), some (nb, _) =>
      match decodeRow rest with
      | .ok cells => .ok (decodedCell nr ng nb :: cells)
      | .error e => .error e
    | _, _ => .error .invalidGlyph

/-- `decode` (R104, R108) on the lines of a block, within the capacity of the grid store: the empty lines are discarded, the
first row with an error rejects the block, and a block with no row is `EmptyInput`. The answer is the cell words of each
row, unpadded. -/
def decodeLines (lines : List (List U32)) : Except DecStatus (List (List U32)) :=
  match (lines.filter fun l => !l.isEmpty).mapM decodeRow with
  | .error e => .error e
  | .ok [] => .error .emptyInput
  | .ok rows => .ok rows

/-- The lines of a symbol list (R113): the runs of `CHAR` between its `BREAK`s, one more than there are `BREAK`s. -/
def symbolLines : List InSymbol → List (List U32)
  | [] => [[]]
  | .brk :: t => [] :: symbolLines t
  | .char c :: t =>
    match symbolLines t with
    | [] => [[c]]
    | l :: ls => (c :: l) :: ls

/-- The glyph-text predicate (R113): every line has a character, and every character is a glyph. -/
def glyphText (syms : List InSymbol) : Bool :=
  (symbolLines syms).all fun l => !l.isEmpty && l.all inGlyph

end Sys2Proof.Machine
end

