-- ==== Sys2Proof/Safety.lean ====
section
/-! DEFINITION. What a claim may take as its launch state and as a safe run (R23, R153, R160), and the invariant of the
machine (R12, R13, R15, R17, R18, R19, R21, R22, R31). -/

namespace Sys2Proof.Machine

/-- No interface fault has been taken since reset (R23). -/
def State.Safe (s : State) : Prop := s.fault = 0#3

/-- An encode can be launched (R153). -/
def State.EncodeReady (s : State) : Prop := s.enc.state = .idle

/-- A decode can be launched (R153). -/
def State.DecodeReady (s : State) : Prop := s.dec.state = .idle ∨ s.dec.state = .done

/-- No transaction is unfinished (R160). -/
def State.Complete (s : State) : Prop := s.EncodeReady ∧ s.DecodeReady

/-- The scan position of the encoder (R12, R13). -/
structure EncContext.Inv (e : EncContext) : Prop where
  active : e.state = .active → 1 ≤ e.w.toNat ∧ 1 ≤ e.h.toNat ∧ e.x.toNat < e.w.toNat ∧ e.y.toNat < e.h.toNat
  idle : e.state = .idle → e.x = 0#16 ∧ e.y = if e.w = 0#16 ∨ e.h = 0#16 then 0#16 else e.h

/-- A word that `DEC_CHAR` stores (R65, R89, R94): alpha 255, and in each colour only bits 6:3. -/
def storedPixel (v : U32) : Prop := v &&& 0xFF878787#32 = 0xFF000000#32

/-- The decoder context, over a grid store of `maxW × maxH` cells. -/
structure DecContext.Inv (maxW maxH : U16) (d : DecContext) : Prop where
  /-- the stores have their canonical form -/
  gridWf : Memory.wf d.grid
  rowLenWf : Memory.wf d.rowLen
  /-- every listed cell is inside the store and holds a decoded pixel (R30, R31, R89) -/
  gridCells : ∀ p ∈ d.grid, p.1 / 65536 < maxH.toNat ∧ p.1 % 65536 < maxW.toNat ∧ storedPixel p.2
  /-- every listed `ROWLEN` entry is inside the array (R30) -/
  rowLenCells : ∀ p ∈ d.rowLen, p.1 < maxH.toNat
  /-- the position is inside the store (R12, R17) -/
  colLe : d.col.toNat ≤ maxW.toNat
  rowLe : d.row.toNat ≤ maxH.toNat
  wmaxLe : d.wmax.toNat ≤ maxW.toNat
  /-- a row with a pixel is a row of the store (R92) -/
  rowLt : d.col ≠ 0#16 → d.row.toNat < maxH.toNat
  /-- the length of every closed row has been stored (R17) -/
  rows : ∀ y : U16, y < d.row → ∃ n, rowLenRead d y = some n ∧ 1 ≤ n.toNat ∧ n ≤ d.wmax
  /-- some closed row is the widest, once there is one (R17) -/
  widest : d.row ≠ 0#16 → ∃ y : U16, y < d.row ∧ rowLenRead d y = some d.wmax
  wmaxZero : d.row = 0#16 → d.wmax = 0#16
  /-- every pixel of a closed row has been stored (R22) -/
  cells : ∀ y n : U16, y < d.row → rowLenRead d y = some n → ∀ x : U16, x < n → ∃ v, memRead d y x = some v
  /-- and so has every pixel of the row in progress -/
  rowCells : ∀ x : U16, x < d.col → ∃ v, memRead d d.row x = some v
  /-- before the first block every register is as reset leaves it (R26) -/
  idle : d.state = .idle → d = DecContext.reset
  /-- a block being parsed has no error and no result (R15, R18, R19) -/
  active : d.state = .active → d.status = .ok ∧ d.w = 0#16 ∧ d.h = 0#16 ∧ d.pred = false
  /-- a rejected block has an error and no result (R18, R19, R134) -/
  reject : d.state = .reject →
    (d.status = .invalidGlyph ∨ d.status = .invalidRowLength ∨ d.status = .gridOverflow) ∧
      d.w = 0#16 ∧ d.h = 0#16 ∧ d.pred = false
  /-- an accepted block is a grid with a row, and its rows are closed (R18, R19, R107) -/
  doneOk : d.state = .done → d.status = .ok →
    d.w = d.wmax ∧ d.h = d.row ∧ d.row ≠ 0#16 ∧ d.col = 0#16 ∧ d.pending = false
  /-- any other closed block is empty (R19, R108) -/
  doneErr : d.state = .done → d.status ≠ .ok → d.w = 0#16 ∧ d.h = 0#16
  /-- the predicate of a closed block (R20) -/
  donePred : d.state = .done → d.pred = !d.prBad

/-- The invariant: the capacity is one that R6 allows, and both contexts are as their rules say. -/
structure State.Inv (s : State) : Prop where
  maxWPos : 1 ≤ s.maxW.toNat
  maxHPos : 1 ≤ s.maxH.toNat
  enc : EncContext.Inv s.enc
  dec : DecContext.Inv s.maxW s.maxH s.dec

end Sys2Proof.Machine
end

