-- ==== Sys2Proof/Certificates/Slice0/Obligations.lean ====
section
/-! DEFINITION. The statements about the model, each with the rule of spec/ that it formalises. Results are stated in the
source's own formulas on natural numbers (`Spec.quantizeN` and the like), not in the model's functions. -/

open Sys2Proof Sys2Proof.Machine

namespace Sys2Proof.Spec

/-! ## The source's formulas -/

/-- LOR's P on 3..13, "forth = P" (R60). -/
def forthPairs : List (Nat × Nat) :=
  [(3, 8), (4, 3), (5, 6), (6, 9), (7, 13), (8, 4), (9, 5), (10, 7), (11, 12), (12, 10), (13, 11)]

/-- LOR's P⁻¹ on 3..13, "back = P⁻¹" (R61). -/
def backPairs : List (Nat × Nat) :=
  [(3, 4), (4, 8), (5, 9), (6, 5), (7, 10), (8, 3), (9, 6), (10, 12), (11, 13), (12, 11), (13, 7)]

/-- `P(n)`, the identity outside 3..13 (R60). -/
def forthN (n : Nat) : Nat := (forthPairs.lookup n).getD n

/-- `P⁻¹(n)`, the identity outside 3..13 (R61). -/
def backN (n : Nat) : Nat := (backPairs.lookup n).getD n

/-- LOR's `quantize`: "compute n = (value >> 3) & 0xF; if 3 ≤ n ≤ 13, return P(n), else return n unchanged" (R64). -/
def quantizeN (v : Nat) : Nat := forthN ((v >>> 3) &&& 0xF)

/-- LOR's `dequantize`: "if 3 ≤ nibble ≤ 13, let n = P⁻¹(nibble), else n = nibble; return n << 3" (R65). -/
def dequantizeN (n : Nat) : Nat := backN n <<< 3

/-- LOR's `mix` (R70). -/
def mixN (r g b a : Nat) : Nat :=
  ((a &&& 128) >>> 4) ||| ((r &&& 128) >>> 1) ||| ((g &&& 128) >>> 2) ||| ((b &&& 128) >>> 3)

/-- LOR's `pack` (R75). -/
def packN (n1 n2 : Nat) : Nat :=
  0x2800 + ((n2 &&& 8) <<< 4) + ((n1 &&& 8) <<< 3) + ((n2 &&& 7) <<< 3) + (n1 &&& 7)

/-- The first nibble of LOR's `unpack` (R78). -/
def unpackN1 (cp : Nat) : Nat := ((cp - 0x2800) &&& 7) ||| (((cp - 0x2800) &&& 64) >>> 3)

/-- The second nibble of LOR's `unpack` (R78). -/
def unpackN2 (cp : Nat) : Nat := (((cp - 0x2800) &&& 56) >>> 3) ||| (((cp - 0x2800) &&& 128) >>> 4)

/-- `in_glyph` (R50). -/
def isGlyph (cp : U32) : Prop := 0x2800 ≤ cp.toNat ∧ cp.toNat ≤ 0x28FF

/-- The two glyphs of LOR's `encodeRow` loop body (R86). -/
def glyphA (p : Pixel) : Nat := packN (quantizeN p.r.toNat) (quantizeN p.g.toNat)

/-- The second glyph (R86). -/
def glyphB (p : Pixel) : Nat :=
  packN (quantizeN p.b.toNat) (quantizeN (mixN p.r.toNat p.g.toNat p.b.toNat p.a.toNat))

/-- The cell word `pix(r, g, b, a)` as a number (R32). -/
def pixN (r g b a : Nat) : Nat := r + 256 * g + 65536 * b + 16777216 * a

/-! ## States after an event -/

/-- The state after the response `kind(d)` and no other change. -/
def answered (kind : ResponseKind) (d : Nat) (s : State) : State :=
  { s with responses := s.responses ++ [⟨kind, BitVec.ofNat 32 d⟩] }

/-- The state after the interface fault of bit `b` of `FAULT` (R137). -/
def raised (b : Nat) (s : State) : State :=
  { s with
      fault := s.fault ||| BitVec.ofNat 3 (2 ^ b)
      responses := s.responses ++ [⟨.fault, BitVec.ofNat 32 (2 ^ b)⟩] }

/-- `s` with the word `c` next on its command port. -/
def onPort (c : U40) (s : State) : State := { s with commands := c :: s.commands }

/-- In every state the word `c` executes the command `i`. -/
def runs (c : U40) (i : Instr) : Prop := ∀ s, step (onPort c s) = exec i s

/-- In every state the word `c` raises `IllegalCommand`. -/
def illegal (c : U40) : Prop := ∀ s, step (onPort c s) = .next (raised 0 s)

/-! ## Codes -/

/-- `enc_state` as a number (R10). -/
def encStateN : EncState → Nat
  | .idle => 0
  | .active => 1

/-- `dec_state` as a number (R15). -/
def decStateN : DecState → Nat
  | .idle => 0
  | .active => 1
  | .reject => 2
  | .done => 3

/-- `dec_status` as a number (R131). -/
def decStatusN : DecStatus → Nat
  | .ok => 0
  | .invalidGlyph => 1
  | .invalidRowLength => 2
  | .emptyInput => 3
  | .gridOverflow => 4

/-- The status words of R24, as sums of their fields at their bits. -/
def statusN (sel : Nat) (s : State) : Nat :=
  match sel with
  | 0 => s.fault.toNat
  | 1 => encStateN s.enc.state
  | 2 => s.enc.w.toNat + 65536 * s.enc.h.toNat
  | 3 => s.enc.x.toNat + 65536 * s.enc.y.toNat
  | 4 => decStateN s.dec.state
  | 5 => decStatusN s.dec.status + 16 * s.dec.pred.toNat + 32 * s.dec.prCur.toNat + 64 * s.dec.prBad.toNat
  | 6 => s.dec.w.toNat + 65536 * s.dec.h.toNat
  | 7 => s.dec.col.toNat + 65536 * s.dec.row.toNat
  | 8 => s.dec.holdR.toNat + 16 * s.dec.holdG.toNat + 256 * s.dec.pending.toNat + 65536 * s.dec.wmax.toNat
  | _ => 0

/-- What R43 says of the data of each kind of response. -/
def responseOk (r : Response) : Prop :=
  match r.kind with
  | .val => r.data.toNat < 65536
  | .err => r.data = 1#32
  | .mark => r.data = 0#32
  | .glyph => 0x2800 ≤ r.data.toNat ∧ r.data.toNat ≤ 0x28FF
  | .eot => r.data = 0#32
  | .decDone => ∃ st : DecStatus, ∃ p : Bool, r.data.toNat = decStatusN st + 16 * p.toNat
  | .pix => True
  | .stat => True
  | .fault => r.data = 1#32 ∨ r.data = 2#32 ∨ r.data = 4#32

/-- A command that is not legal in the current state of its context (R138, bit 1). -/
def protocolError (i : Instr) (s : State) : Prop :=
  match i with
  | .encStart _ _ => s.enc.state = .active
  | .encPix _ _ _ _ => s.enc.state = .idle
  | .decStart => s.dec.state = .active ∨ s.dec.state = .reject
  | .decChar _ => s.dec.state = .idle ∨ s.dec.state = .done
  | .decBreak => s.dec.state = .idle ∨ s.dec.state = .done
  | .decEnd => s.dec.state = .idle ∨ s.dec.state = .done
  | .gridRd _ _ => ¬(s.dec.state = .done ∧ s.dec.status = .ok)
  | .nop => False
  | .statRd _ => False
  | .pfwd _ => False
  | .pback _ => False
  | .quant _ => False
  | .dequant _ => False
  | .mix _ _ _ _ => False
  | .pack _ _ => False
  | .unpack _ => False

/-- A `GRID_RD` outside the result grid (R138, bit 2). -/
def addressError (i : Instr) (s : State) : Prop :=
  ∃ x y, i = .gridRd x y ∧ (s.dec.w ≤ x ∨ s.dec.h ≤ y)

/-- The cause of the fault of bit `b`, with the priority of R139: encoding, then state, then operand values. -/
def faultCause (b : Nat) (c : U40) (s : State) : Prop :=
  match b with
  | 0 => (∀ i, decode c ≠ .ok i) ∨ ∃ sel : Byte, decode c = .ok (.statRd sel) ∧ 8 < sel.toNat
  | 1 => ∃ i, decode c = .ok i ∧ protocolError i s
  | 2 => ∃ i, decode c = .ok i ∧ ¬protocolError i s ∧ addressError i s
  | _ => False

/-- `DEC_CHAR cp` takes a decode error in `ACTIVE` (R131, R132, R136). -/
def charError (cp : U32) (s : State) : Prop :=
  ¬isGlyph cp ∨ (s.dec.pending = true ∧ (s.maxW ≤ s.dec.col ∨ s.maxH ≤ s.dec.row))

/-- The encoder's rows of R106: where `i` takes its state machine from `s`. -/
def encArrow (i : Instr) (s : State) : EncState :=
  match i with
  | .encStart w h => if s.enc.state = .idle ∧ (w = 0#16 ∨ h = 0#16) then .idle else .active
  | .encPix _ _ _ _ =>
    if s.enc.state = .active ∧ ¬(s.enc.x.toNat + 1 = s.enc.w.toNat ∧ s.enc.y.toNat + 1 = s.enc.h.toNat) then .active
    else .idle
  | .nop => s.enc.state
  | .statRd _ => s.enc.state
  | .pfwd _ => s.enc.state
  | .pback _ => s.enc.state
  | .quant _ => s.enc.state
  | .dequant _ => s.enc.state
  | .mix _ _ _ _ => s.enc.state
  | .pack _ _ => s.enc.state
  | .unpack _ => s.enc.state
  | .decStart => s.enc.state
  | .decChar _ => s.enc.state
  | .decBreak => s.enc.state
  | .decEnd => s.enc.state
  | .gridRd _ _ => s.enc.state

/-- The decoder's rows of R106 for `DEC_START`. -/
def decStartArrow : DecState → DecState
  | .idle => .active
  | .active => .active
  | .reject => .reject
  | .done => .active

/-- The decoder's rows of R106 for `DEC_CHAR` and `DEC_BREAK`; `error` when the command takes a decode error. -/
def parseArrow (error : Prop) (st st' : DecState) : Prop :=
  match st with
  | .idle => st' = .idle
  | .active => (error ∧ st' = .reject) ∨ (¬error ∧ st' = .active)
  | .reject => st' = .reject
  | .done => st' = .done

/-- The decoder's rows of R106 for `DEC_END`. -/
def decEndArrow : DecState → DecState
  | .idle => .idle
  | .active => .done
  | .reject => .done
  | .done => .done

/-- The decoder's rows of R106: `st'` is where `i` takes its state machine from `s`. -/
def decArrow (i : Instr) (s : State) (st' : DecState) : Prop :=
  match i with
  | .decStart => st' = decStartArrow s.dec.state
  | .decChar cp => parseArrow (charError cp s) s.dec.state st'
  | .decBreak => parseArrow (s.dec.pending = true) s.dec.state st'
  | .decEnd => st' = decEndArrow s.dec.state
  | .gridRd _ _ => st' = s.dec.state
  | .nop => st' = s.dec.state
  | .statRd _ => st' = s.dec.state
  | .pfwd _ => st' = s.dec.state
  | .pback _ => st' = s.dec.state
  | .quant _ => st' = s.dec.state
  | .dequant _ => st' = s.dec.state
  | .mix _ _ _ _ => st' = s.dec.state
  | .pack _ _ => st' = s.dec.state
  | .unpack _ => st' = s.dec.state
  | .encStart _ _ => st' = s.dec.state
  | .encPix _ _ _ _ => st' = s.dec.state

/-- The reserved opcodes, as R45 lists them. -/
def reservedOp (op : Nat) : Prop :=
  (0x02 ≤ op ∧ op ≤ 0x0F) ∨ (0x17 ≤ op ∧ op ≤ 0x1F) ∨ (0x22 ≤ op ∧ op ≤ 0x2F) ∨ (0x35 ≤ op ∧ op ≤ 0xFF)

/-- Each opcode whose format has reserved bits, with the number of low `arg` bits that its operands take (R41, R44): the
formats `Z`, `S`, `N1`, `B1` and `N2`. -/
def operandBits : List (Byte × Nat) :=
  [(0x00#8, 0), (0x01#8, 8), (0x10#8, 4), (0x11#8, 4), (0x12#8, 8), (0x13#8, 4), (0x15#8, 8), (0x30#8, 0),
   (0x32#8, 0), (0x33#8, 0)]

/-- A row of spec/opcode_table.json. -/
structure TableRow where
  mnemonic : String
  mtch : U40
  mask : U40

/-- spec/opcode_table.json (R44): mnemonic, match, mask. -/
def table : List TableRow :=
  [⟨"NOP", 0x0000000000#40, 0xFFFFFFFFFF#40⟩, ⟨"STAT_RD", 0x0100000000#40, 0xFFFFFFFF00#40⟩,
   ⟨"PFWD", 0x1000000000#40, 0xFFFFFFFFF0#40⟩, ⟨"PBACK", 0x1100000000#40, 0xFFFFFFFFF0#40⟩,
   ⟨"QUANT", 0x1200000000#40, 0xFFFFFFFF00#40⟩, ⟨"DEQUANT", 0x1300000000#40, 0xFFFFFFFFF0#40⟩,
   ⟨"MIX", 0x1400000000#40, 0xFF00000000#40⟩, ⟨"PACK", 0x1500000000#40, 0xFFFFFFFF00#40⟩,
   ⟨"UNPACK", 0x1600000000#40, 0xFF00000000#40⟩, ⟨"ENC_START", 0x2000000000#40, 0xFF00000000#40⟩,
   ⟨"ENC_PIX", 0x2100000000#40, 0xFF00000000#40⟩, ⟨"DEC_START", 0x3000000000#40, 0xFFFFFFFFFF#40⟩,
   ⟨"DEC_CHAR", 0x3100000000#40, 0xFF00000000#40⟩, ⟨"DEC_BREAK", 0x3200000000#40, 0xFFFFFFFFFF#40⟩,
   ⟨"DEC_END", 0x3300000000#40, 0xFFFFFFFFFF#40⟩, ⟨"GRID_RD", 0x3400000000#40, 0xFF00000000#40⟩]

/-- The decoder registers but for the two stores. -/
def decRegisters (d : DecContext) : DecContext := { d with rowLen := [], grid := [] }

/-- The response word of a symbol of the encoder (R43, R51). -/
def symbolResponse : OutSymbol → Response
  | .mark => ⟨.mark, 0#32⟩
  | .glyph cp => ⟨.glyph, cp.setWidth 32⟩
  | .eot => ⟨.eot, 0#32⟩

/-- The symbols of one row (R85, R86): its marker, then two glyphs for each pixel. -/
def rowSymbols (row : List Pixel) : List OutSymbol :=
  .mark :: row.flatMap fun p => [.glyph (BitVec.ofNat 16 (glyphA p)), .glyph (BitVec.ofNat 16 (glyphB p))]

/-- The decoder's own kinds of response (R43). -/
def decoderKind (r : Response) : Bool := r.kind == .decDone || r.kind == .pix

end Sys2Proof.Spec

open Sys2Proof.Spec

/-! ## Encoding -/

/-- R40, R41, R44: no bit of an operand is dropped. -/
def Obligations.DecodeInvertsEncode : Prop := ∀ i : Instr, decode (encode i) = .ok i

/-- R46, decision D4: a reserved bit is never ignored, so no two words mean one command. -/
def Obligations.EncodeInvertsDecode : Prop := ∀ (w : U40) (i : Instr), decode w = .ok i → encode i = w

/-- R44: "A word c selects the command when c & mask = match", for each row of the opcode table; R45 and R46: a word that no
row matches selects nothing. -/
def Obligations.WordsSelectTableRows : Prop :=
  ∀ w : U40,
    (∀ row ∈ table, w &&& row.mask = row.mtch ↔ ∃ i, decode w = .ok i ∧ i.mnemonic = row.mnemonic) ∧
    ((∀ i, decode w ≠ .ok i) ↔ ∀ row ∈ table, w &&& row.mask ≠ row.mtch)

/-- R52 and 95_test_vectors.md: words of the spec's own examples, one or more of each family. -/
def Obligations.SpecWordsDecode : Prop :=
  decode 0x0000000000#40 = .ok .nop ∧ decode 0x0100000006#40 = .ok (.statRd 6#8) ∧
  decode 0x1000000007#40 = .ok (.pfwd 7#4) ∧ decode 0x110000000D#40 = .ok (.pback 13#4) ∧
  decode 0x12000000C8#40 = .ok (.quant 200#8) ∧ decode 0x1300000005#40 = .ok (.dequant 5#4) ∧
  decode 0x148281FF80#40 = .ok (.mix 128#8 255#8 129#8 130#8) ∧ decode 0x1500000050#40 = .ok (.pack 0#4 5#4) ∧
  decode 0x1600002847#40 = .ok (.unpack 0x2847#32) ∧ decode 0x2000010002#40 = .ok (.encStart 2#16 1#16) ∧
  decode 0x2180282018#40 = .ok (.encPix 24#8 32#8 40#8 128#8) ∧ decode 0x3400000001#40 = .ok (.gridRd 1#16 0#16) ∧
  decode 0x3000000001#40 = .error .reservedArgBits ∧ decode 0x3500000000#40 = .error .reservedOp

/-- R43: the kind byte of each response, above its data. -/
def Obligations.ResponseWordsCarryTheirKind : Prop :=
  ∀ d : U32,
    Response.word ⟨.val, d⟩ = 0x01#8 ++ d ∧ Response.word ⟨.err, d⟩ = 0x02#8 ++ d ∧
    Response.word ⟨.mark, d⟩ = 0x03#8 ++ d ∧ Response.word ⟨.glyph, d⟩ = 0x04#8 ++ d ∧
    Response.word ⟨.eot, d⟩ = 0x05#8 ++ d ∧ Response.word ⟨.decDone, d⟩ = 0x06#8 ++ d ∧
    Response.word ⟨.pix, d⟩ = 0x07#8 ++ d ∧ Response.word ⟨.stat, d⟩ = 0x08#8 ++ d ∧
    Response.word ⟨.fault, d⟩ = 0x0F#8 ++ d

/-! ## Steps -/

/-- R4: one step consumes exactly the next command word and executes the command it selects. A block with no command waits,
unchanged: that clause is the model's (log entry 3). -/
def Obligations.StepRunsTheDecodedCommand : Prop :=
  (∀ (s : State) (c : U40) (rest : List U40) (i : Instr), s.commands = c :: rest → decode c = .ok i →
    step s = exec i { s with commands := rest }) ∧
  ∀ s : State, s.commands = [] → step s = .next s

/-- R45, R46: a reserved opcode, a reserved `arg` bit that is set and a reserved selector raise `IllegalCommand`, in every
state, and do nothing else (`illegal`). -/
def Obligations.ReservedWordsRaiseIllegalCommand : Prop :=
  (∀ (op : Byte) (arg : U32), reservedOp op.toNat → illegal (op ++ arg)) ∧
  (∀ p ∈ operandBits, ∀ arg : U32, 2 ^ p.2 ≤ arg.toNat → illegal (p.1 ++ arg)) ∧
  ∀ sel : Byte, 0x08 < sel.toNat → illegal (0x01#8 ++ (0#24 ++ sel))

/-- R161: the step function is total: every word in every state has a successor state. -/
def Obligations.EveryStepHasASuccessor : Prop := ∀ s : State, ∃ t : State, step s = .next t

/-- R37, R43, R156: a step appends to the response stream, at most four words, each as R43 lays it out; R6, R24: it leaves
`MAXW` and `MAXH` alone; R4: it consumes one word. -/
def Obligations.StepsAppendAtMostFourResponses : Prop :=
  ∀ s t : State, step s = .next t →
    (∃ l, t.responses = s.responses ++ l ∧ l.length ≤ 4 ∧ ∀ r ∈ l, responseOk r) ∧
    t.maxW = s.maxW ∧ t.maxH = s.maxH ∧ t.commands = s.commands.tail

/-! ## System and leaf commands -/

/-- R120. -/
def Obligations.NopDoesNothing : Prop :=
  (∀ s, exec .nop s = .next s) ∧ runs 0x0000000000#40 .nop ∧
  ∀ arg : U32, arg ≠ 0#32 → illegal (0x00#8 ++ arg)

/-- R121, R24: `STAT_RD` answers the status word of its selector, and changes nothing else; a reserved selector or a
reserved bit raises `IllegalCommand`. -/
def Obligations.StatRdAnswersTheStatusWord : Prop :=
  (∀ (sel : Byte) s, sel.toNat ≤ 8 → exec (.statRd sel) s = .next (answered .stat (statusN sel.toNat s) s)) ∧
  (∀ (sel : Byte) s, 8 < sel.toNat → exec (.statRd sel) s = .next (raised 0 s)) ∧
  (∀ sel : Byte, runs (0x01#8 ++ (0#24 ++ sel)) (.statRd sel)) ∧
  ∀ arg : U32, 256 ≤ arg.toNat → illegal (0x01#8 ++ arg)

/-- R62. -/
def Obligations.PfwdAnswersThePermutation : Prop :=
  (∀ n s, exec (.pfwd n) s = .next (answered .val (forthN n.toNat) s)) ∧
  (∀ n : Nibble, runs (0x10#8 ++ (0#28 ++ n)) (.pfwd n)) ∧
  ∀ arg : U32, 16 ≤ arg.toNat → illegal (0x10#8 ++ arg)

/-- R63. -/
def Obligations.PbackAnswersTheInverse : Prop :=
  (∀ n s, exec (.pback n) s = .next (answered .val (backN n.toNat) s)) ∧
  (∀ n : Nibble, runs (0x11#8 ++ (0#28 ++ n)) (.pback n)) ∧
  ∀ arg : U32, 16 ≤ arg.toNat → illegal (0x11#8 ++ arg)

/-- R64. -/
def Obligations.QuantAnswersTheQuantizedNibble : Prop :=
  (∀ v s, exec (.quant v) s = .next (answered .val (quantizeN v.toNat) s)) ∧
  (∀ v : Byte, runs (0x12#8 ++ (0#24 ++ v)) (.quant v)) ∧
  ∀ arg : U32, 256 ≤ arg.toNat → illegal (0x12#8 ++ arg)

/-- R65. -/
def Obligations.DequantAnswersTheChannel : Prop :=
  (∀ n s, exec (.dequant n) s = .next (answered .val (dequantizeN n.toNat) s)) ∧
  (∀ n : Nibble, runs (0x13#8 ++ (0#28 ++ n)) (.dequant n)) ∧
  ∀ arg : U32, 16 ≤ arg.toNat → illegal (0x13#8 ++ arg)

/-- R71, R70. -/
def Obligations.MixAnswersTheSubcarrierByte : Prop :=
  (∀ r g b a s, exec (.mix r g b a) s = .next (answered .val (mixN r.toNat g.toNat b.toNat a.toNat) s)) ∧
  ∀ r g b a : Byte, runs (0x14#8 ++ (a ++ b ++ g ++ r)) (.mix r g b a)

/-- R77, R75. -/
def Obligations.PackAnswersTheGlyph : Prop :=
  (∀ n1 n2 s, exec (.pack n1 n2) s = .next (answered .val (packN n1.toNat n2.toNat) s)) ∧
  (∀ n1 n2 : Nibble, runs (0x15#8 ++ (0#24 ++ n2 ++ n1)) (.pack n1 n2)) ∧
  ∀ arg : U32, 256 ≤ arg.toNat → illegal (0x15#8 ++ arg)

/-- R79, R78: a glyph is answered by its nibbles, anything else by `R_ERR(1)`. -/
def Obligations.UnpackAnswersNibblesOrInvalidGlyph : Prop :=
  (∀ cp s, isGlyph cp →
    exec (.unpack cp) s = .next (answered .val (unpackN1 cp.toNat + 16 * unpackN2 cp.toNat) s)) ∧
  (∀ cp s, ¬isGlyph cp → exec (.unpack cp) s = .next (answered .err 1 s)) ∧
  ∀ cp : U32, runs (0x16#8 ++ cp) (.unpack cp)

/-- R67, and R60 and R61 through it: the three composite laws of the quantizer. -/
def Obligations.QuantizerCompositeLaws : Prop :=
  (∀ v : Byte, dequantize (quantize v) = v &&& 0x78#8) ∧ (∀ q : Nibble, quantize (dequantize q) = q) ∧
  ∀ v : Byte, quantize (dequantize (quantize v)) = quantize v

/-- R80: `pack` and `unpack` are inverse to each other on the nibble pairs and the glyphs. -/
def Obligations.PackAndUnpackAreInverse : Prop :=
  (∀ n1 n2 : Nibble, unpackGlyph ((packGlyph n1 n2).setWidth 32) = some (n1, n2)) ∧
  ∀ cp : U32, isGlyph cp → ∃ n1 n2, unpackGlyph cp = some (n1, n2) ∧ (packGlyph n1 n2).setWidth 32 = cp

/-! ## Encoder -/

/-- R102. -/
def Obligations.EncStartOpensAGrid : Prop :=
  (∀ w h s, s.enc.state = .active → exec (.encStart w h) s = .next (raised 1 s)) ∧
  (∀ w h s, s.enc.state = .idle → w ≠ 0#16 → h ≠ 0#16 →
    exec (.encStart w h) s = .next { s with enc := ⟨.active, w, h, 0#16, 0#16⟩ }) ∧
  (∀ w h s, s.enc.state = .idle → w = 0#16 ∨ h = 0#16 →
    exec (.encStart w h) s = .next (answered .eot 0 { s with enc := ⟨.idle, w, h, 0#16, 0#16⟩ })) ∧
  ∀ w h : U16, runs (0x20#8 ++ (h ++ w)) (.encStart w h)

/-- R87 with the scan of R103, in terms of the pixels accepted (R13): the marker on the first pixel of a row, the two
glyphs, `R_EOT` after the last pixel, and the position one pixel further; no other register changes. The premise is the
encoder's invariant of R13, `StepsKeepTheInvariant`. -/
def Obligations.EncPixEmitsGlyphsAndAdvances : Prop :=
  (∀ r g b a s, s.enc.state = .active → EncContext.Inv s.enc →
    ∃ e : EncContext,
      exec (.encPix r g b a) s = .next { s with
        enc := e
        responses := s.responses ++
          (if s.enc.x = 0#16 then [⟨.mark, 0#32⟩] else []) ++
          [⟨.glyph, BitVec.ofNat 32 (glyphA ⟨r, g, b, a⟩)⟩, ⟨.glyph, BitVec.ofNat 32 (glyphB ⟨r, g, b, a⟩)⟩] ++
          (if e.state = .idle then [⟨.eot, 0#32⟩] else []) } ∧
      e.w = s.enc.w ∧ e.h = s.enc.h ∧ e.x.toNat < e.w.toNat ∧
      e.y.toNat * e.w.toNat + e.x.toNat = s.enc.y.toNat * s.enc.w.toNat + s.enc.x.toNat + 1 ∧
      (e.state = .idle ↔ e.y.toNat * e.w.toNat + e.x.toNat = e.w.toNat * e.h.toNat)) ∧
  (∀ r g b a s, s.enc.state = .idle → exec (.encPix r g b a) s = .next (raised 1 s)) ∧
  ∀ r g b a : Byte, runs (0x21#8 ++ (a ++ b ++ g ++ r)) (.encPix r g b a)

/-- R101, R110, R51: the encoder turns every grid into its TextImage, emits nothing else, raises no fault and leaves
`enc_state = IDLE`. -/
def Obligations.EncodeGridEmitsTheTextImage : Prop :=
  ∀ (w : Nat) (rows : List (List Pixel)) (s : State), s.EncodeReady → w ≤ 65535 → rows.length ≤ 65535 →
    (∀ row ∈ rows, row.length = w) →
    ∃ t, runInstrs (encodeGrid w rows) s = .next t ∧ t.EncodeReady ∧ t.fault = s.fault ∧ t.dec = s.dec ∧
      newResponses s t =
        ((if w = 0 then [] else rows.flatMap rowSymbols) ++ [OutSymbol.eot]).map symbolResponse ∧
      ∀ marker, serialize marker (outSymbols (newResponses s t)) =
        if w = 0 then [] else rows.flatMap fun row => marker ++ row.flatMap fun p =>
          [BitVec.ofNat 32 (glyphA p), BitVec.ofNat 32 (glyphB p)]

/-! ## Decoder -/

/-- R105. -/
def Obligations.DecStartOpensABlock : Prop :=
  (∀ s : State, s.dec.state = .idle ∨ s.dec.state = .done →
    exec .decStart s = .next { s with dec :=
      { state := .active, pending := false, holdR := 0#4, holdG := 0#4, col := 0#16, row := 0#16, wmax := 0#16,
        status := .ok, w := 0#16, h := 0#16, prCur := false, prBad := false, pred := false,
        rowLen := s.dec.rowLen, grid := s.dec.grid } }) ∧
  (∀ s : State, s.dec.state = .active ∨ s.dec.state = .reject → exec .decStart s = .next (raised 1 s)) ∧
  runs 0x3000000000#40 .decStart ∧ ∀ arg : U32, arg ≠ 0#32 → illegal (0x30#8 ++ arg)

/-- R90: `DEC_CHAR` in every state of the decoder: the fault outside a block, the predicate tracking in `REJECT`, the two
decode errors, the first glyph held, and the second glyph's pixel stored in its cell and in no other. -/
def Obligations.DecCharParsesOneCharacter : Prop :=
  (∀ cp s, s.dec.state = .idle ∨ s.dec.state = .done → exec (.decChar cp) s = .next (raised 1 s)) ∧
  (∀ cp s, s.dec.state = .reject → isGlyph cp →
    exec (.decChar cp) s = .next { s with dec := { s.dec with prCur := true } }) ∧
  (∀ cp s, s.dec.state = .reject → ¬isGlyph cp →
    exec (.decChar cp) s = .next { s with dec := { s.dec with prCur := true, prBad := true } }) ∧
  (∀ cp s, s.dec.state = .active → ¬isGlyph cp →
    exec (.decChar cp) s = .next { s with dec :=
      { s.dec with prCur := true, prBad := true, status := .invalidGlyph, state := .reject } }) ∧
  (∀ cp s, s.dec.state = .active → isGlyph cp → s.dec.pending = false →
    exec (.decChar cp) s = .next { s with dec :=
      { s.dec with
          prCur := true
          holdR := BitVec.ofNat 4 (unpackN1 cp.toNat)
          holdG := BitVec.ofNat 4 (unpackN2 cp.toNat)
          pending := true } }) ∧
  (∀ cp s, s.dec.state = .active → isGlyph cp → s.dec.pending = true → s.maxW ≤ s.dec.col ∨ s.maxH ≤ s.dec.row →
    exec (.decChar cp) s = .next { s with dec :=
      { s.dec with prCur := true, status := .gridOverflow, state := .reject } }) ∧
  (∀ cp s, s.dec.state = .active → isGlyph cp → s.dec.pending = true → s.dec.col < s.maxW → s.dec.row < s.maxH →
    ∃ grid col,
      exec (.decChar cp) s = .next { s with dec :=
        { s.dec with prCur := true, pending := false, col := col, grid := grid } } ∧
      col.toNat = s.dec.col.toNat + 1 ∧
      ∀ y x, memRead { s.dec with grid := grid } y x =
        if y = s.dec.row ∧ x = s.dec.col then
          some (BitVec.ofNat 32 (pixN (dequantizeN s.dec.holdR.toNat) (dequantizeN s.dec.holdG.toNat)
            (dequantizeN (unpackN1 cp.toNat)) 255))
        else memRead s.dec y x) ∧
  ∀ cp : U32, runs (0x31#8 ++ cp) (.decChar cp)

/-- R91, R92, R93: `DEC_BREAK` in every state of the decoder: the fault outside a block, the predicate tracking in
`REJECT`, an odd row rejected, an empty row discarded, any other row closed. The premise of the last case is the bound on
`dec_row` that R92 and R17 give and `StepsKeepTheInvariant` keeps. -/
def Obligations.DecBreakClosesTheRow : Prop :=
  (∀ s : State, s.dec.state = .idle ∨ s.dec.state = .done → exec .decBreak s = .next (raised 1 s)) ∧
  (∀ s : State, s.dec.state = .reject →
    exec .decBreak s = .next { s with dec :=
      { s.dec with prBad := s.dec.prBad || !s.dec.prCur, prCur := false } }) ∧
  (∀ s : State, s.dec.state = .active → s.dec.pending = true →
    exec .decBreak s = .next { s with dec :=
      { s.dec with
          prBad := s.dec.prBad || !s.dec.prCur
          prCur := false
          status := .invalidRowLength
          state := .reject } }) ∧
  (∀ s : State, s.dec.state = .active → s.dec.pending = false → s.dec.col = 0#16 →
    exec .decBreak s = .next { s with dec :=
      { s.dec with prBad := s.dec.prBad || !s.dec.prCur, prCur := false } }) ∧
  (∀ s : State, s.dec.state = .active → s.dec.pending = false → s.dec.col ≠ 0#16 → s.dec.row < s.maxH →
    ∃ rowLen wmax row,
      exec .decBreak s = .next { s with dec :=
        { s.dec with
            prBad := s.dec.prBad || !s.dec.prCur
            prCur := false
            rowLen := rowLen
            wmax := wmax
            row := row
            col := 0#16 } } ∧
      wmax.toNat = max s.dec.wmax.toNat s.dec.col.toNat ∧ row.toNat = s.dec.row.toNat + 1 ∧
      ∀ y, rowLenRead { s.dec with rowLen := rowLen } y =
        if y = s.dec.row then some s.dec.col else rowLenRead s.dec y) ∧
  runs 0x3200000000#40 .decBreak ∧ ∀ arg : U32, arg ≠ 0#32 → illegal (0x32#8 ++ arg)

/-- R107: `DEC_END` in every state of the decoder. In a block it always ends in `DONE` with one `R_DEC_DONE`; the result is
the widest row by the number of rows when every row was good and there was one, and empty otherwise. -/
def Obligations.DecEndFixesTheResult : Prop :=
  (∀ s : State, s.dec.state = .idle ∨ s.dec.state = .done → exec .decEnd s = .next (raised 1 s)) ∧
  (∀ s : State, s.dec.state = .reject → ∃ bad,
    bad = (s.dec.prBad || !s.dec.prCur) ∧
    exec .decEnd s = .next (answered .decDone (decStatusN s.dec.status + 16 * (!bad).toNat) { s with dec :=
      { s.dec with prBad := bad, pred := !bad, w := 0#16, h := 0#16, state := .done } })) ∧
  (∀ s : State, s.dec.state = .active → s.dec.pending = true → ∃ bad,
    bad = (s.dec.prBad || !s.dec.prCur) ∧
    exec .decEnd s = .next (answered .decDone (2 + 16 * (!bad).toNat) { s with dec :=
      { s.dec with
          prBad := bad, pred := !bad, w := 0#16, h := 0#16, status := .invalidRowLength, state := .done } })) ∧
  (∀ s : State, s.dec.state = .active → s.dec.pending = false → s.dec.col = 0#16 → s.dec.row = 0#16 → ∃ bad,
    bad = (s.dec.prBad || !s.dec.prCur) ∧
    exec .decEnd s = .next (answered .decDone (3 + 16 * (!bad).toNat) { s with dec :=
      { s.dec with prBad := bad, pred := !bad, w := 0#16, h := 0#16, status := .emptyInput, state := .done } })) ∧
  (∀ s : State, s.dec.state = .active → s.dec.pending = false → s.dec.col = 0#16 → s.dec.row ≠ 0#16 → ∃ bad,
    bad = (s.dec.prBad || !s.dec.prCur) ∧
    exec .decEnd s = .next (answered .decDone (decStatusN s.dec.status + 16 * (!bad).toNat) { s with dec :=
      { s.dec with prBad := bad, pred := !bad, w := s.dec.wmax, h := s.dec.row, state := .done } })) ∧
  (∀ s : State, s.dec.state = .active → s.dec.pending = false → s.dec.col ≠ 0#16 → s.dec.row < s.maxH →
    ∃ bad rowLen wmax row,
      bad = (s.dec.prBad || !s.dec.prCur) ∧
      exec .decEnd s = .next (answered .decDone (decStatusN s.dec.status + 16 * (!bad).toNat) { s with dec :=
        { s.dec with
            prBad := bad, pred := !bad, rowLen := rowLen, wmax := wmax, row := row, col := 0#16, w := wmax, h := row,
            state := .done } }) ∧
      wmax.toNat = max s.dec.wmax.toNat s.dec.col.toNat ∧ row.toNat = s.dec.row.toNat + 1 ∧
      ∀ y, rowLenRead { s.dec with rowLen := rowLen } y =
        if y = s.dec.row then some s.dec.col else rowLenRead s.dec y) ∧
  runs 0x3300000000#40 .decEnd ∧ ∀ arg : U32, arg ≠ 0#32 → illegal (0x33#8 ++ arg)

/-- R109, R36: `GRID_RD` answers the stored cell or the pad inside an accepted result, and faults everywhere else. The
premise of the accepted case is the machine's invariant, which says that what R109 reads has been stored (R21, R22). -/
def Obligations.GridRdAnswersCellPadOrFault : Prop :=
  (∀ x y s, ¬(s.dec.state = .done ∧ s.dec.status = .ok) → exec (.gridRd x y) s = .next (raised 1 s)) ∧
  (∀ x y s, s.dec.state = .done → s.dec.status = .ok → s.dec.w ≤ x ∨ s.dec.h ≤ y →
    exec (.gridRd x y) s = .next (raised 2 s)) ∧
  (∀ x y s, s.Inv → s.dec.state = .done → s.dec.status = .ok → x < s.dec.w → y < s.dec.h →
    ∃ n, rowLenRead s.dec y = some n ∧ 1 ≤ n.toNat ∧ n ≤ s.dec.w ∧
      (x < n → ∃ v, memRead s.dec y x = some v ∧ exec (.gridRd x y) s = .next (answered .pix v.toNat s)) ∧
      (n ≤ x → exec (.gridRd x y) s = .next (answered .pix 0 s))) ∧
  ∀ x y : U16, runs (0x34#8 ++ (y ++ x)) (.gridRd x y)

/-- R36, R67, R89, R94, R108: inside its row `GRID_RD` answers the stored cell, with alpha 255 and colours that are
multiples of 8 from 0 to 120, and so never the pad; beyond the end of the row it answers the pad. -/
def Obligations.DecodedPixelsAreOpaque : Prop :=
  ∀ x y s t v, s.Inv → exec (.gridRd x y) s = .next t → ⟨.pix, v⟩ ∈ newResponses s t →
    ∃ n, rowLenRead s.dec y = some n ∧
      (x < n → memRead s.dec y x = some v ∧ v ≠ 0#32 ∧
        ∃ r g b, v.toNat = pixN (8 * r) (8 * g) (8 * b) 255 ∧ r < 16 ∧ g < 16 ∧ b < 16) ∧
      (n ≤ x → v = 0#32)

/-! ## Faults and decode errors -/

/-- R138, with the priority of R139: which command word takes which interface fault. A command raises at most one, and
nothing is recorded but its bit and its `R_FAULT`. -/
def Obligations.FaultsHaveTheirCauses : Prop :=
  ∀ (c : U40) (s t : State), step (onPort c s) = .next t →
    (∀ d : U32, ⟨.fault, d⟩ ∈ newResponses s t ↔ ∃ b, b < 3 ∧ d = BitVec.ofNat 32 (2 ^ b) ∧ faultCause b c s) ∧
    ∀ b, b < 3 → faultCause b c s → t = raised b s

/-- R137: a faulting command sets its bit, emits `R_FAULT`, and has no other effect. -/
def Obligations.FaultingCommandsDoNothingElse : Prop :=
  ∀ (c : U40) (s t : State) (d : U32), step (onPort c s) = .next t → ⟨.fault, d⟩ ∈ newResponses s t →
    ∃ b, b < 3 ∧ d = BitVec.ofNat 32 (2 ^ b) ∧ t = raised b s

/-- R23: a bit of `FAULT` is set by taking its fault, which answers `R_FAULT` with that bit, and only by that; no step
clears one, and reset clears all three. -/
def Obligations.FaultBitsAreSticky : Prop :=
  (∀ s t : State, step s = .next t →
    s.fault &&& t.fault = s.fault ∧
    (t.fault = s.fault ∨ ∃ b, b < 3 ∧ t.fault = s.fault ||| BitVec.ofNat 3 (2 ^ b) ∧
      t.responses = s.responses ++ [⟨.fault, BitVec.ofNat 32 (2 ^ b)⟩])) ∧
  ∀ s : State, (hostReset s).fault = 0#3

/-- R134, R142: in `REJECT` a step leaves the error, the position and the stores alone, until `DEC_END` closes the block
with an empty result and the same error. -/
def Obligations.RejectedBlocksKeepTheirFirstError : Prop :=
  ∀ s t : State, s.dec.state = .reject → step s = .next t →
    t.dec.status = s.dec.status ∧ t.dec.pending = s.dec.pending ∧ t.dec.holdR = s.dec.holdR ∧
    t.dec.holdG = s.dec.holdG ∧ t.dec.col = s.dec.col ∧ t.dec.row = s.dec.row ∧ t.dec.wmax = s.dec.wmax ∧
    t.dec.rowLen = s.dec.rowLen ∧ t.dec.grid = s.dec.grid ∧
    (t.dec.state = .reject ∨ t.dec.state = .done ∧ t.dec.w = 0#16 ∧ t.dec.h = 0#16)

/-- R106, R15: the transitions of the two state machines, command by command. The premise is the encoder's invariant. -/
def Obligations.StateMachinesFollowTheirTable : Prop :=
  ∀ i s t, EncContext.Inv s.enc → exec i s = .next t → t.enc.state = encArrow i s ∧ decArrow i s t.dec.state

/-! ## The stores -/

/-- R30, R35: only a `DEC_CHAR` that completes a pixel writes a cell, and only the cell of its position; only `DEC_BREAK`
and `DEC_END` write an entry of `ROWLEN`, and only that of the row they close. -/
def Obligations.StoresAreWrittenOneEntryAtATime : Prop :=
  ∀ i s t, exec i s = .next t →
    (∀ y x, memRead t.dec y x ≠ memRead s.dec y x →
      y = s.dec.row ∧ x = s.dec.col ∧ s.dec.state = .active ∧ s.dec.pending = true ∧ ∃ cp, i = .decChar cp) ∧
    (∀ y, rowLenRead t.dec y ≠ rowLenRead s.dec y →
      y = s.dec.row ∧ s.dec.state = .active ∧ rowLenRead t.dec y = some s.dec.col ∧ (i = .decBreak ∨ i = .decEnd))

/-! ## Reset and the invariant -/

/-- R26: the value of every register that the rule gives one, after reset: at the start, and after a reset between two
commands; and the response stream is empty. -/
def Obligations.ResetClearsEveryRegister : Prop :=
  ∀ s, s = State.reset ∨ (∃ s0, s = hostReset s0) →
    s.fault = 0#3 ∧ s.enc = ⟨.idle, 0#16, 0#16, 0#16, 0#16⟩ ∧ s.responses = [] ∧
    decRegisters s.dec =
      { state := .idle, pending := false, holdR := 0#4, holdG := 0#4, col := 0#16, row := 0#16, wmax := 0#16,
        status := .ok, w := 0#16, h := 0#16, prCur := false, prBad := false, pred := false, rowLen := [], grid := [] }

/-- R26 leaves `ROWLEN` and `GRID` unspecified at reset. The model's choice (log entry 5): no entry of theirs has a value
then, so a read is a free value; and no `GRID_RD` reads one, whatever its operands (R26: such a read stays impossible). -/
def Obligations.ResetLeavesTheStoresUnspecified : Prop :=
  ∀ s, s = State.reset ∨ (∃ s0, s = hostReset s0) →
    (∀ y, rowLenRead s.dec y = none) ∧ (∀ y x, memRead s.dec y x = none) ∧
    ∀ x y, exec (.gridRd x y) s = .next (raised 1 s)

/-- The invariant holds after reset, whatever `MAXW` and `MAXH` are. -/
def Obligations.ResetMeetsTheInvariant : Prop := State.reset.Inv ∧ State.reset.Safe ∧ State.reset.Complete

/-- R12, R13, R15, R17, R18, R19, R22: every step keeps the machine's invariant. -/
def Obligations.StepsKeepTheInvariant : Prop := ∀ s t : State, s.Inv → step s = .next t → t.Inv

/-- R150: a reset between two commands restores the invariant's registers, so it keeps the invariant too. -/
def Obligations.HostResetKeepsTheInvariant : Prop := ∀ s : State, s.Inv → (hostReset s).Inv

/-! ## Whole transactions -/

/-- R115, R44, R18: a command reads and writes its own context only; a command of no context reads no register at all. -/
def Obligations.CommandsActOnTheirOwnContext : Prop :=
  ∀ i : Instr,
    (∀ s t, exec i s = .next t →
      (i.context ≠ .encoder → t.enc = s.enc) ∧ (i.context ≠ .decoder → t.dec = s.dec)) ∧
    (i.context = .none → ∃ l, ∀ s, exec i s = .next { s with responses := s.responses ++ l }) ∧
    (i.context = .encoder → ∀ s s', s.enc = s'.enc → ∃ e f l,
      exec i s = .next { s with enc := e, fault := s.fault ||| f, responses := s.responses ++ l } ∧
      exec i s' = .next { s' with enc := e, fault := s'.fault ||| f, responses := s'.responses ++ l }) ∧
    (i.context = .decoder → ∀ s s', s.dec = s'.dec → s.maxW = s'.maxW → s.maxH = s'.maxH → ∃ d f l,
      exec i s = .next { s with dec := d, fault := s.fault ||| f, responses := s.responses ++ l } ∧
      exec i s' = .next { s' with dec := d, fault := s'.fault ||| f, responses := s'.responses ++ l })

/-- R115: an encode and a decode interleaved with each other and with any other commands each leave the context, and give
the responses, that they would alone. -/
def Obligations.InterleavedTransactionsDoNotInterfere : Prop :=
  ∀ (is : List Instr) (s : State), ∃ t te td,
    runInstrs is s = .next t ∧
    runInstrs (is.filter fun i => i.context == .encoder) s = .next te ∧
    runInstrs (is.filter fun i => i.context == .decoder) s = .next td ∧
    t.enc = te.enc ∧ outSymbols (newResponses s t) = outSymbols (newResponses s te) ∧
    t.dec = td.dec ∧ (newResponses s t).filter decoderKind = (newResponses s td).filter decoderKind

/-- R113, R116: after a block of any symbols the decoder is in `DONE`, `FAULT` is what it was, and `dec_pred` is the
glyph-text predicate of the symbols. -/
def Obligations.DecPredIsTheGlyphTextPredicate : Prop :=
  ∀ (syms : List InSymbol) (s : State), s.DecodeReady →
    ∃ t, runInstrs (decodeSyms syms) s = .next t ∧ t.dec.state = .done ∧ t.fault = s.fault ∧ t.enc = s.enc ∧
      t.dec.pred = glyphText syms ∧
      newResponses s t = [⟨.decDone, BitVec.ofNat 32 (decStatusN t.dec.status + 16 * t.dec.pred.toNat)⟩]

/-- R14, R116: what a block answers, in its registers, in its responses and in every later read of its grid, does not
depend on anything an earlier block left. -/
def Obligations.BlocksDoNotSeeEarlierBlocks : Prop :=
  ∀ (syms : List InSymbol) (s s' : State), s.DecodeReady → s'.DecodeReady → s.maxW = s'.maxW → s.maxH = s'.maxH →
    ∃ t t', runInstrs (decodeSyms syms) s = .next t ∧ runInstrs (decodeSyms syms) s' = .next t' ∧
      decRegisters t.dec = decRegisters t'.dec ∧ newResponses s t = newResponses s' t' ∧
      ∀ x y u u', exec (.gridRd x y) t = .next u → exec (.gridRd x y) t' = .next u' →
        newResponses t u = newResponses t' u'

/-- R96: the characters of a row and its boundary compute LOR's `decodeRow`. -/
def Obligations.RowsDecodeAsDecodeRow : Prop :=
  ∀ (cs : List U32) (s : State), s.dec.state = .active → s.dec.pending = false → s.dec.col = 0#16 →
    s.dec.row < s.maxH → cs.length / 2 ≤ s.maxW.toNat →
    ∃ t, runInstrs (cs.map Instr.decChar ++ [.decBreak]) s = .next t ∧
      match decodeRow cs with
      | .error e => t.dec.state = .reject ∧ t.dec.status = e
      | .ok cells =>
        t.dec.state = .active ∧ t.dec.status = s.dec.status ∧ cells.length = cs.length / 2 ∧
        (∀ x, x < cells.length → memRead t.dec s.dec.row (BitVec.ofNat 16 x) = cells[x]?) ∧
        t.dec.row.toNat = s.dec.row.toNat + (if cells = [] then 0 else 1) ∧
        (cells ≠ [] → rowLenRead t.dec s.dec.row = some (BitVec.ofNat 16 cells.length))

/-- R104, R107, R108, R111: a block within the capacity of the grid store decodes as LOR's `decode` does: its error is the
first in text order, and its grid is its non-empty rows, as high as there are rows and as wide as the widest, padded. -/
def Obligations.BlocksDecodeAsDecode : Prop :=
  ∀ (syms : List InSymbol) (s : State), s.DecodeReady →
    (∀ l ∈ symbolLines syms, l.length / 2 ≤ s.maxW.toNat) →
    ((symbolLines syms).filter fun l => !l.isEmpty).length ≤ s.maxH.toNat →
    ∃ t, runInstrs (decodeSyms syms) s = .next t ∧ t.dec.state = .done ∧
      match decodeLines (symbolLines syms) with
      | .error e => t.dec.status = e ∧ t.dec.w = 0#16 ∧ t.dec.h = 0#16
      | .ok rows =>
        t.dec.status = .ok ∧ t.dec.h.toNat = rows.length ∧ t.dec.w.toNat = (rows.map List.length).foldr max 0 ∧
        ∀ (y x : Nat) (row : List U32), rows[y]? = some row → x < t.dec.w.toNat →
          exec (.gridRd (BitVec.ofNat 16 x) (BitVec.ofNat 16 y)) t =
            .next (answered .pix ((row[x]?).getD 0#32).toNat t)

/-- R114: decoding the text of an encoded grid gives its dimensions back, and each pixel with bits 6:3 of its colours and
alpha 255. -/
def Obligations.DecodeOfEncodeKeepsBitsSixToThree : Prop :=
  ∀ (w : Nat) (rows : List (List Pixel)) (s : State), s.Complete → 1 ≤ w → w ≤ s.maxW.toNat → 1 ≤ rows.length →
    rows.length ≤ s.maxH.toNat → (∀ row ∈ rows, row.length = w) →
    ∃ t u, runInstrs (encodeGrid w rows) s = .next t ∧
      runInstrs (decodeText (serialize Config.rowMarker (outSymbols (newResponses s t)))) t = .next u ∧
      u.dec.state = .done ∧ u.dec.status = .ok ∧ u.dec.w.toNat = w ∧ u.dec.h.toNat = rows.length ∧
      u.fault = s.fault ∧
      ∀ (y x : Nat) (row : List Pixel) (p : Pixel), rows[y]? = some row → row[x]? = some p →
        rowLenRead u.dec (BitVec.ofNat 16 y) = some (BitVec.ofNat 16 w) ∧
        exec (.gridRd (BitVec.ofNat 16 x) (BitVec.ofNat 16 y)) u =
          .next (answered .pix
            (pixN (p.r.toNat &&& 0x78) (p.g.toNat &&& 0x78) (p.b.toNat &&& 0x78) 255) u)

/-- R112: `DECODE_TEXT` is `DECODE_SYMS` of `tokenize`, and the four equations of `tokenize`, in the order in which they are
tried. -/
def Obligations.TokenizeFollowsItsEquations : Prop :=
  (∀ text, decodeText text = decodeSyms (tokenize text)) ∧
  tokenize [] = [] ∧
  (∀ t, tokenize (0x5B#32 :: 0x62#32 :: 0x72#32 :: 0x5D#32 :: t) = .brk :: tokenize t) ∧
  (∀ t, tokenize (0x0A#32 :: t) = .brk :: tokenize t) ∧
  ∀ (c : U32) (t : List U32), c ≠ 0x0A#32 → (¬∃ t', c :: t = 0x5B#32 :: 0x62#32 :: 0x72#32 :: 0x5D#32 :: t') →
    tokenize (c :: t) = .char c :: tokenize t
end

