-- ==== Sys2Proof/Laws/Decode.lean ====
section
/-! SUPPORT. The fields of a word built by concatenation, and each operand format on a word of its own. -/

namespace Sys2Proof

/-! ## Fields of a concatenation -/

theorem extract_high {n m : Nat} (a : BitVec n) (b : BitVec m) (s l : Nat) :
    (a ++ b).extractLsb' (m + s) l = a.extractLsb' s l := by
  ext i hi
  simp [BitVec.getLsbD_append, BitVec.getElem_extractLsb', show ¬m + s + i < m by omega,
    show m + s + i - m = s + i by omega]

theorem extract_low {n m : Nat} (a : BitVec n) (b : BitVec m) (s l : Nat) (h : s + l ≤ m) :
    (a ++ b).extractLsb' s l = b.extractLsb' s l := by
  ext i hi
  simp [BitVec.getLsbD_append, BitVec.getElem_extractLsb', show s + i < m by omega]

theorem extract_all {n : Nat} (a : BitVec n) : a.extractLsb' 0 n = a := by
  ext i hi; simp

/-- A word is its high field above its low field. -/
theorem append_extract {n m : Nat} (w : BitVec (n + m)) : w.extractLsb' m n ++ w.extractLsb' 0 m = w := by
  ext i hi
  simp only [BitVec.getElem_append, BitVec.getElem_extractLsb']
  split
  · simp [BitVec.getLsbD_eq_getElem hi]
  · simp [BitVec.getLsbD_eq_getElem hi, show m + (i - m) = i by omega]

theorem toNat_append {n m : Nat} (a : BitVec n) (b : BitVec m) :
    (a ++ b).toNat = a.toNat * 2 ^ m + b.toNat := by
  rw [BitVec.toNat_append, Nat.shiftLeft_eq, ← Nat.shiftLeft_eq, Nat.shiftLeft_add_eq_or_of_lt b.isLt]

theorem opField_append (o : Byte) (a : U32) : opField (o ++ a) = o :=
  (extract_high o a 0 8).trans (extract_all o)

theorem argField_append (o : Byte) (a : U32) : argField (o ++ a) = a :=
  (extract_low o a 0 32 (by decide)).trans (extract_all a)

/-- A command word is its `op` above its `arg` (R40). -/
theorem opField_append_argField (w : U40) : opField w ++ argField w = w := append_extract (n := 8) (m := 32) w

/-! ## The formats -/

/-- A number below `2^k` is one that a mask of the bits from `k` up does not meet. -/
theorem and_high_mask_eq_zero {k : Nat} (hk : k ≤ 32) (arg : U32) :
    arg &&& (BitVec.allOnes 32 <<< k) = 0#32 ↔ arg.toNat < 2 ^ k := by
  constructor
  · intro h
    refine Nat.lt_pow_two_of_testBit _ fun i hi => ?_
    by_cases h32 : i < 32
    · have := congrArg (fun x : U32 => x.getLsbD i) h
      simp only [BitVec.getLsbD_and, BitVec.getLsbD_shiftLeft, BitVec.getLsbD_allOnes, BitVec.getLsbD_zero] at this
      simp only [h32, show ¬i < k by omega, show i - k < 32 by omega, decide_true, decide_false, Bool.and_true,
        Bool.not_false] at this
      exact this
    · exact Nat.testBit_lt_two_pow (lt_of_lt_of_le arg.isLt (Nat.pow_le_pow_right (by decide) (by omega)))
  · intro h
    ext i hi
    simp only [BitVec.getElem_and, BitVec.getElem_shiftLeft, BitVec.getElem_zero]
    by_cases hik : i < k
    · simp [hik]
    · have : arg[i] = false := Nat.testBit_lt_two_pow (lt_of_lt_of_le h (Nat.pow_le_pow_right (by decide) (Nat.le_of_not_lt hik)))
      simp [this]

theorem requireZero_high {k : Nat} (hk : k ≤ 32) (arg : U32) (i : Instr) :
    requireZero (BitVec.allOnes 32 <<< k) arg i = if arg.toNat < 2 ^ k then .ok i else .error .reservedArgBits := by
  simp only [requireZero, and_high_mask_eq_zero hk]

theorem formatZ_eq (arg : U32) (i : Instr) :
    formatZ arg i = if arg.toNat < 1 then .ok i else .error .reservedArgBits :=
  requireZero_high (k := 0) (by decide) arg i

theorem formatN1_eq (arg : U32) (mk : Nibble → Instr) :
    formatN1 arg mk = if arg.toNat < 16 then .ok (mk (arg.extractLsb' 0 4)) else .error .reservedArgBits :=
  requireZero_high (k := 4) (by decide) arg _

theorem formatB1_eq (arg : U32) (mk : Byte → Instr) :
    formatB1 arg mk = if arg.toNat < 256 then .ok (mk (arg.extractLsb' 0 8)) else .error .reservedArgBits :=
  requireZero_high (k := 8) (by decide) arg _

theorem formatN2_eq (arg : U32) (mk : Nibble → Nibble → Instr) :
    formatN2 arg mk =
      if arg.toNat < 256 then .ok (mk (arg.extractLsb' 0 4) (arg.extractLsb' 4 4)) else .error .reservedArgBits :=
  requireZero_high (k := 8) (by decide) arg _

theorem formatN1_word (n : Nibble) (mk : Nibble → Instr) : formatN1 (0#28 ++ n) mk = .ok (mk n) := by
  have h : (0#28 ++ n : U32).toNat = n.toNat := by
    rw [show (0#28 ++ n : U32).toNat = _ from toNat_append (0#28) n]; simp
  rw [formatN1_eq, h, if_pos n.isLt]
  exact congrArg (fun x => Except.ok (mk x)) ((extract_low (0#28) n 0 4 (by decide)).trans (extract_all n))

theorem formatB1_word (v : Byte) (mk : Byte → Instr) : formatB1 (0#24 ++ v) mk = .ok (mk v) := by
  have h : (0#24 ++ v : U32).toNat = v.toNat := by
    rw [show (0#24 ++ v : U32).toNat = _ from toNat_append (0#24) v]; simp
  rw [formatB1_eq, h, if_pos v.isLt]
  exact congrArg (fun x => Except.ok (mk x)) ((extract_low (0#24) v 0 8 (by decide)).trans (extract_all v))

theorem formatN2_word (n1 n2 : Nibble) (mk : Nibble → Nibble → Instr) :
    formatN2 (0#24 ++ n2 ++ n1) mk = .ok (mk n1 n2) := by
  have h : (0#24 ++ n2 ++ n1 : U32).toNat = n2.toNat * 16 + n1.toNat := by
    rw [show (0#24 ++ n2 ++ n1 : U32).toNat = _ from toNat_append (0#24 ++ n2) n1, toNat_append]; simp
  have h1 : (0#24 ++ n2 ++ n1 : U32).extractLsb' 0 4 = n1 :=
    (extract_low (0#24 ++ n2) n1 0 4 (by decide)).trans (extract_all n1)
  have h2 : (0#24 ++ n2 ++ n1 : U32).extractLsb' 4 4 = n2 :=
    (extract_high (0#24 ++ n2) n1 0 4).trans ((extract_low (0#24) n2 0 4 (by decide)).trans (extract_all n2))
  have := n1.isLt; have := n2.isLt
  rw [formatN2_eq, h, if_pos (by omega), h1, h2]

theorem formatP4_word (r g b a : Byte) (mk : Byte → Byte → Byte → Byte → Instr) :
    formatP4 (a ++ b ++ g ++ r) mk = .ok (mk r g b a) := by
  have h0 : (a ++ b ++ g ++ r : U32).extractLsb' 0 8 = r :=
    (extract_low (a ++ b ++ g) r 0 8 (by decide)).trans (extract_all r)
  have h1 : (a ++ b ++ g ++ r : U32).extractLsb' 8 8 = g :=
    (extract_high (a ++ b ++ g) r 0 8).trans ((extract_low (a ++ b) g 0 8 (by decide)).trans (extract_all g))
  have h2 : (a ++ b ++ g ++ r : U32).extractLsb' 16 8 = b :=
    (extract_high (a ++ b ++ g) r 8 8).trans
      ((extract_high (a ++ b) g 0 8).trans ((extract_low a b 0 8 (by decide)).trans (extract_all b)))
  have h3 : (a ++ b ++ g ++ r : U32).extractLsb' 24 8 = a :=
    (extract_high (a ++ b ++ g) r 16 8).trans
      ((extract_high (a ++ b) g 8 8).trans ((extract_high a b 0 8).trans (extract_all a)))
  simp only [formatP4, h0, h1, h2, h3]

theorem formatD2_word (x y : U16) (mk : U16 → U16 → Instr) : formatD2 (y ++ x) mk = .ok (mk x y) := by
  have h0 : (y ++ x : U32).extractLsb' 0 16 = x := (extract_low y x 0 16 (by decide)).trans (extract_all x)
  have h1 : (y ++ x : U32).extractLsb' 16 16 = y := (extract_high y x 0 16).trans (extract_all y)
  simp only [formatD2, h0, h1]

/-! ## The decoder -/

/-- The decoder on a word given by its two fields (R40, R44). -/
theorem decode_append (o : Byte) (arg : U32) :
    decode (o ++ arg) =
      if o = 0x00#8 then formatZ arg .nop
      else if o = 0x01#8 then formatB1 arg .statRd
      else if o = 0x10#8 then formatN1 arg .pfwd
      else if o = 0x11#8 then formatN1 arg .pback
      else if o = 0x12#8 then formatB1 arg .quant
      else if o = 0x13#8 then formatN1 arg .dequant
      else if o = 0x14#8 then formatP4 arg .mix
      else if o = 0x15#8 then formatN2 arg .pack
      else if o = 0x16#8 then formatW arg .unpack
      else if o = 0x20#8 then formatD2 arg .encStart
      else if o = 0x21#8 then formatP4 arg .encPix
      else if o = 0x30#8 then formatZ arg .decStart
      else if o = 0x31#8 then formatW arg .decChar
      else if o = 0x32#8 then formatZ arg .decBreak
      else if o = 0x33#8 then formatZ arg .decEnd
      else if o = 0x34#8 then formatD2 arg .gridRd
      else .error .reservedOp := by
  unfold decode; simp only [opField_append, argField_append]

/-- The fields of an encoded command are its opcode and its operand field. -/
theorem opField_encode (i : Instr) : opField (encode i) = i.op := opField_append _ _

theorem argField_encode (i : Instr) : argField (encode i) = i.arg := argField_append _ _

end Sys2Proof
end

