-- ==== Sys2Proof/Laws/Memory.lean ====
section
/-! SUPPORT. The laws of the store: a read after a write, and the canonical form. -/

namespace Sys2Proof.Machine

variable {α : Type}

@[simp] theorem Memory.read_nil (k : Nat) : Memory.read ([] : Memory α) k = none := rfl

theorem Memory.read_write (m : Memory α) (k j : Nat) (v : α) :
    Memory.read (Memory.write m k v) j = if j = k then some v else Memory.read m j := by
  induction m with
  | nil => simp only [Memory.write, Memory.read, eq_comm]
  | cons p m ih =>
    obtain ⟨a, u⟩ := p
    unfold Memory.write
    split
    · simp only [Memory.read, eq_comm]
    · split
      · subst_vars; simp only [Memory.read, eq_comm]; split <;> rfl
      · simp only [Memory.read, ih]
        split_ifs <;> simp_all

@[simp] theorem Memory.read_write_same (m : Memory α) (k : Nat) (v : α) :
    Memory.read (Memory.write m k v) k = some v := by simp [Memory.read_write]

theorem Memory.read_write_other (m : Memory α) {k j : Nat} (v : α) (h : j ≠ k) :
    Memory.read (Memory.write m k v) j = Memory.read m j := by simp [Memory.read_write, h]

theorem Memory.mem_write {m : Memory α} {k : Nat} {v : α} {p : Nat × α} (h : p ∈ Memory.write m k v) :
    p = (k, v) ∨ p ∈ m := by
  induction m with
  | nil => simpa [Memory.write] using h
  | cons q m ih =>
    obtain ⟨a, u⟩ := q
    unfold Memory.write at h
    split at h
    · simpa using h
    · split at h
      · simp only [List.mem_cons] at h ⊢; tauto
      · simp only [List.mem_cons] at h ⊢
        rcases h with h | h
        · exact .inr (.inl h)
        · rcases ih h with h | h <;> tauto

/-- Every store keeps the canonical form. -/
theorem Memory.wf_write {m : Memory α} (h : Memory.wf m) (k : Nat) (v : α) : Memory.wf (Memory.write m k v) := by
  induction m with
  | nil => simp [Memory.write]
  | cons q m ih =>
    obtain ⟨a, u⟩ := q
    have hw := List.pairwise_cons.1 h
    unfold Memory.write
    split
    · refine List.pairwise_cons.2 ⟨fun p hp => ?_, h⟩
      rcases List.mem_cons.1 hp with rfl | hp
      · assumption
      · exact lt_trans (by assumption) (hw.1 p hp)
    · split
      · subst_vars; exact List.pairwise_cons.2 hw
      · refine List.pairwise_cons.2 ⟨fun p hp => ?_, ih hw.2⟩
        rcases Memory.mem_write hp with rfl | hp
        · simp only; omega
        · exact hw.1 p hp

/-- A value read is a listed entry. -/
theorem Memory.mem_of_read {m : Memory α} {k : Nat} {v : α} (h : Memory.read m k = some v) : (k, v) ∈ m := by
  induction m with
  | nil => simp at h
  | cons q m ih =>
    obtain ⟨a, u⟩ := q
    simp only [Memory.read] at h
    split at h
    · simp_all
    · exact List.mem_cons_of_mem _ (ih h)

/-- In the canonical form the store is determined by what its addresses read as. -/
theorem Memory.read_eq_some_iff {m : Memory α} (hm : Memory.wf m) (k : Nat) (v : α) :
    Memory.read m k = some v ↔ (k, v) ∈ m := by
  refine ⟨Memory.mem_of_read, fun h => ?_⟩
  induction m with
  | nil => simp at h
  | cons q m ih =>
    obtain ⟨a, u⟩ := q
    have hw := List.pairwise_cons.1 hm
    simp only [Memory.read]
    rcases List.mem_cons.1 h with h | h
    · simp_all
    · have := hw.1 _ h
      simp only at this
      rw [if_neg (by omega)]
      exact ih hw.2 h

/-- Two stores in the canonical form that read alike at every address are one list. -/
theorem Memory.ext_of_wf {m m' : Memory α} (hm : Memory.wf m) (hm' : Memory.wf m')
    (h : ∀ k, Memory.read m k = Memory.read m' k) : m = m' := by
  refine List.Pairwise.eq_of_mem_iff hm hm' fun p => ?_
  obtain ⟨k, v⟩ := p
  rw [← Memory.read_eq_some_iff hm, ← Memory.read_eq_some_iff hm', h]

/-- Two cells have one address only if they are one cell. -/
theorem cellAddr_inj {y x y' x' : U16} : cellAddr y x = cellAddr y' x' ↔ y = y' ∧ x = x' := by
  refine ⟨fun h => ?_, by rintro ⟨rfl, rfl⟩; rfl⟩
  unfold cellAddr at h
  have := x.isLt; have := x'.isLt
  exact ⟨BitVec.eq_of_toNat_eq (by omega), BitVec.eq_of_toNat_eq (by omega)⟩

theorem cellAddr_div (y x : U16) : cellAddr y x / 65536 = y.toNat := by
  have := x.isLt; unfold cellAddr; omega

theorem cellAddr_mod (y x : U16) : cellAddr y x % 65536 = x.toNat := by
  have := x.isLt; unfold cellAddr; omega

/-- `MemRead` after `MemWrite` (R31). -/
theorem memRead_memWrite (d : DecContext) (y x y' x' : U16) (v : U32) :
    memRead (memWrite y x v d) y' x' = if y' = y ∧ x' = x then some v else memRead d y' x' := by
  simp only [memRead, memWrite, Memory.read_write, cellAddr_inj]

/-- `ROWLEN` after a write of one entry. -/
theorem rowLenRead_rowLenWrite (d : DecContext) (y n y' : U16) :
    rowLenRead (rowLenWrite y n d) y' = if y' = y then some n else rowLenRead d y' := by
  simp only [rowLenRead, rowLenWrite, Memory.read_write, BitVec.toNat_inj]

@[simp] theorem memRead_rowLenWrite (d : DecContext) (y n y' x' : U16) :
    memRead (rowLenWrite y n d) y' x' = memRead d y' x' := rfl

@[simp] theorem rowLenRead_memWrite (d : DecContext) (y x y' : U16) (v : U32) :
    rowLenRead (memWrite y x v d) y' = rowLenRead d y' := rfl

/-- Each store operation keeps the canonical form, and the stores at reset have it. -/
theorem wf_grid_memWrite {d : DecContext} (h : Memory.wf d.grid) (y x : U16) (v : U32) :
    Memory.wf (memWrite y x v d).grid := Memory.wf_write h _ _

theorem wf_rowLen_rowLenWrite {d : DecContext} (h : Memory.wf d.rowLen) (y n : U16) :
    Memory.wf (rowLenWrite y n d).rowLen := Memory.wf_write h _ _

theorem wf_grid_reset : Memory.wf State.reset.dec.grid := List.Pairwise.nil

theorem wf_rowLen_reset : Memory.wf State.reset.dec.rowLen := List.Pairwise.nil

end Sys2Proof.Machine
end

