-- ==== Sys2Proof/Laws/State.lean ====
section
/-! SUPPORT. What each shared update leaves of each field, true by unfolding: no later proof unfolds a record update. -/

namespace Sys2Proof.Machine

@[simp] theorem emit_fault (k : ResponseKind) (d : U32) (s : State) : (emit k d s).fault = s.fault := rfl
@[simp] theorem emit_enc (k : ResponseKind) (d : U32) (s : State) : (emit k d s).enc = s.enc := rfl
@[simp] theorem emit_dec (k : ResponseKind) (d : U32) (s : State) : (emit k d s).dec = s.dec := rfl
@[simp] theorem emit_maxW (k : ResponseKind) (d : U32) (s : State) : (emit k d s).maxW = s.maxW := rfl
@[simp] theorem emit_maxH (k : ResponseKind) (d : U32) (s : State) : (emit k d s).maxH = s.maxH := rfl
@[simp] theorem emit_commands (k : ResponseKind) (d : U32) (s : State) : (emit k d s).commands = s.commands := rfl
@[simp] theorem emit_responses (k : ResponseKind) (d : U32) (s : State) : (emit k d s).responses = s.responses ++ [⟨k, d⟩] := rfl

@[simp] theorem raise_fault (f : IfaceFault) (s : State) : (raise f s).fault = s.fault ||| f.mask := rfl
@[simp] theorem raise_enc (f : IfaceFault) (s : State) : (raise f s).enc = s.enc := rfl
@[simp] theorem raise_dec (f : IfaceFault) (s : State) : (raise f s).dec = s.dec := rfl
@[simp] theorem raise_maxW (f : IfaceFault) (s : State) : (raise f s).maxW = s.maxW := rfl
@[simp] theorem raise_maxH (f : IfaceFault) (s : State) : (raise f s).maxH = s.maxH := rfl
@[simp] theorem raise_commands (f : IfaceFault) (s : State) : (raise f s).commands = s.commands := rfl
@[simp] theorem raise_responses (f : IfaceFault) (s : State) : (raise f s).responses = s.responses ++ [⟨.fault, f.mask.setWidth 32⟩] := rfl

@[simp] theorem pushCommand_fault (c : U40) (s : State) : (pushCommand c s).fault = s.fault := rfl
@[simp] theorem pushCommand_enc (c : U40) (s : State) : (pushCommand c s).enc = s.enc := rfl
@[simp] theorem pushCommand_dec (c : U40) (s : State) : (pushCommand c s).dec = s.dec := rfl
@[simp] theorem pushCommand_maxW (c : U40) (s : State) : (pushCommand c s).maxW = s.maxW := rfl
@[simp] theorem pushCommand_maxH (c : U40) (s : State) : (pushCommand c s).maxH = s.maxH := rfl
@[simp] theorem pushCommand_commands (c : U40) (s : State) : (pushCommand c s).commands = c :: s.commands := rfl
@[simp] theorem pushCommand_responses (c : U40) (s : State) : (pushCommand c s).responses = s.responses := rfl

@[simp] theorem hostIssue_fault (cs : List U40) (s : State) : (hostIssue cs s).fault = s.fault := rfl
@[simp] theorem hostIssue_enc (cs : List U40) (s : State) : (hostIssue cs s).enc = s.enc := rfl
@[simp] theorem hostIssue_dec (cs : List U40) (s : State) : (hostIssue cs s).dec = s.dec := rfl
@[simp] theorem hostIssue_maxW (cs : List U40) (s : State) : (hostIssue cs s).maxW = s.maxW := rfl
@[simp] theorem hostIssue_maxH (cs : List U40) (s : State) : (hostIssue cs s).maxH = s.maxH := rfl
@[simp] theorem hostIssue_commands (cs : List U40) (s : State) : (hostIssue cs s).commands = s.commands ++ cs := rfl
@[simp] theorem hostIssue_responses (cs : List U40) (s : State) : (hostIssue cs s).responses = s.responses := rfl

@[simp] theorem hostReset_fault (s : State) : (hostReset s).fault = 0#3 := rfl
@[simp] theorem hostReset_enc (s : State) : (hostReset s).enc = EncContext.reset := rfl
@[simp] theorem hostReset_dec (s : State) : (hostReset s).dec = DecContext.reset := rfl
@[simp] theorem hostReset_maxW (s : State) : (hostReset s).maxW = s.maxW := rfl
@[simp] theorem hostReset_maxH (s : State) : (hostReset s).maxH = s.maxH := rfl
@[simp] theorem hostReset_commands (s : State) : (hostReset s).commands = s.commands := rfl
@[simp] theorem hostReset_responses (s : State) : (hostReset s).responses = [] := rfl

@[simp] theorem reject_state (e : DecStatus) (d : DecContext) : (reject e d).state = .reject := rfl
@[simp] theorem reject_pending (e : DecStatus) (d : DecContext) : (reject e d).pending = d.pending := rfl
@[simp] theorem reject_holdR (e : DecStatus) (d : DecContext) : (reject e d).holdR = d.holdR := rfl
@[simp] theorem reject_holdG (e : DecStatus) (d : DecContext) : (reject e d).holdG = d.holdG := rfl
@[simp] theorem reject_col (e : DecStatus) (d : DecContext) : (reject e d).col = d.col := rfl
@[simp] theorem reject_row (e : DecStatus) (d : DecContext) : (reject e d).row = d.row := rfl
@[simp] theorem reject_wmax (e : DecStatus) (d : DecContext) : (reject e d).wmax = d.wmax := rfl
@[simp] theorem reject_status (e : DecStatus) (d : DecContext) : (reject e d).status = e := rfl
@[simp] theorem reject_w (e : DecStatus) (d : DecContext) : (reject e d).w = d.w := rfl
@[simp] theorem reject_h (e : DecStatus) (d : DecContext) : (reject e d).h = d.h := rfl
@[simp] theorem reject_prCur (e : DecStatus) (d : DecContext) : (reject e d).prCur = d.prCur := rfl
@[simp] theorem reject_prBad (e : DecStatus) (d : DecContext) : (reject e d).prBad = d.prBad := rfl
@[simp] theorem reject_pred (e : DecStatus) (d : DecContext) : (reject e d).pred = d.pred := rfl
@[simp] theorem reject_rowLen (e : DecStatus) (d : DecContext) : (reject e d).rowLen = d.rowLen := rfl
@[simp] theorem reject_grid (e : DecStatus) (d : DecContext) : (reject e d).grid = d.grid := rfl

@[simp] theorem memWrite_state (y x : U16) (v : U32) (d : DecContext) : (memWrite y x v d).state = d.state := rfl
@[simp] theorem memWrite_pending (y x : U16) (v : U32) (d : DecContext) : (memWrite y x v d).pending = d.pending := rfl
@[simp] theorem memWrite_holdR (y x : U16) (v : U32) (d : DecContext) : (memWrite y x v d).holdR = d.holdR := rfl
@[simp] theorem memWrite_holdG (y x : U16) (v : U32) (d : DecContext) : (memWrite y x v d).holdG = d.holdG := rfl
@[simp] theorem memWrite_col (y x : U16) (v : U32) (d : DecContext) : (memWrite y x v d).col = d.col := rfl
@[simp] theorem memWrite_row (y x : U16) (v : U32) (d : DecContext) : (memWrite y x v d).row = d.row := rfl
@[simp] theorem memWrite_wmax (y x : U16) (v : U32) (d : DecContext) : (memWrite y x v d).wmax = d.wmax := rfl
@[simp] theorem memWrite_status (y x : U16) (v : U32) (d : DecContext) : (memWrite y x v d).status = d.status := rfl
@[simp] theorem memWrite_w (y x : U16) (v : U32) (d : DecContext) : (memWrite y x v d).w = d.w := rfl
@[simp] theorem memWrite_h (y x : U16) (v : U32) (d : DecContext) : (memWrite y x v d).h = d.h := rfl
@[simp] theorem memWrite_prCur (y x : U16) (v : U32) (d : DecContext) : (memWrite y x v d).prCur = d.prCur := rfl
@[simp] theorem memWrite_prBad (y x : U16) (v : U32) (d : DecContext) : (memWrite y x v d).prBad = d.prBad := rfl
@[simp] theorem memWrite_pred (y x : U16) (v : U32) (d : DecContext) : (memWrite y x v d).pred = d.pred := rfl
@[simp] theorem memWrite_rowLen (y x : U16) (v : U32) (d : DecContext) : (memWrite y x v d).rowLen = d.rowLen := rfl
@[simp] theorem memWrite_grid (y x : U16) (v : U32) (d : DecContext) : (memWrite y x v d).grid = Memory.write d.grid (cellAddr y x) v := rfl

@[simp] theorem rowLenWrite_state (y n : U16) (d : DecContext) : (rowLenWrite y n d).state = d.state := rfl
@[simp] theorem rowLenWrite_pending (y n : U16) (d : DecContext) : (rowLenWrite y n d).pending = d.pending := rfl
@[simp] theorem rowLenWrite_holdR (y n : U16) (d : DecContext) : (rowLenWrite y n d).holdR = d.holdR := rfl
@[simp] theorem rowLenWrite_holdG (y n : U16) (d : DecContext) : (rowLenWrite y n d).holdG = d.holdG := rfl
@[simp] theorem rowLenWrite_col (y n : U16) (d : DecContext) : (rowLenWrite y n d).col = d.col := rfl
@[simp] theorem rowLenWrite_row (y n : U16) (d : DecContext) : (rowLenWrite y n d).row = d.row := rfl
@[simp] theorem rowLenWrite_wmax (y n : U16) (d : DecContext) : (rowLenWrite y n d).wmax = d.wmax := rfl
@[simp] theorem rowLenWrite_status (y n : U16) (d : DecContext) : (rowLenWrite y n d).status = d.status := rfl
@[simp] theorem rowLenWrite_w (y n : U16) (d : DecContext) : (rowLenWrite y n d).w = d.w := rfl
@[simp] theorem rowLenWrite_h (y n : U16) (d : DecContext) : (rowLenWrite y n d).h = d.h := rfl
@[simp] theorem rowLenWrite_prCur (y n : U16) (d : DecContext) : (rowLenWrite y n d).prCur = d.prCur := rfl
@[simp] theorem rowLenWrite_prBad (y n : U16) (d : DecContext) : (rowLenWrite y n d).prBad = d.prBad := rfl
@[simp] theorem rowLenWrite_pred (y n : U16) (d : DecContext) : (rowLenWrite y n d).pred = d.pred := rfl
@[simp] theorem rowLenWrite_rowLen (y n : U16) (d : DecContext) : (rowLenWrite y n d).rowLen = Memory.write d.rowLen y.toNat n := rfl
@[simp] theorem rowLenWrite_grid (y n : U16) (d : DecContext) : (rowLenWrite y n d).grid = d.grid := rfl

@[simp] theorem predChar_state (cp : U32) (d : DecContext) : (predChar cp d).state = d.state := rfl
@[simp] theorem predChar_pending (cp : U32) (d : DecContext) : (predChar cp d).pending = d.pending := rfl
@[simp] theorem predChar_holdR (cp : U32) (d : DecContext) : (predChar cp d).holdR = d.holdR := rfl
@[simp] theorem predChar_holdG (cp : U32) (d : DecContext) : (predChar cp d).holdG = d.holdG := rfl
@[simp] theorem predChar_col (cp : U32) (d : DecContext) : (predChar cp d).col = d.col := rfl
@[simp] theorem predChar_row (cp : U32) (d : DecContext) : (predChar cp d).row = d.row := rfl
@[simp] theorem predChar_wmax (cp : U32) (d : DecContext) : (predChar cp d).wmax = d.wmax := rfl
@[simp] theorem predChar_status (cp : U32) (d : DecContext) : (predChar cp d).status = d.status := rfl
@[simp] theorem predChar_w (cp : U32) (d : DecContext) : (predChar cp d).w = d.w := rfl
@[simp] theorem predChar_h (cp : U32) (d : DecContext) : (predChar cp d).h = d.h := rfl
@[simp] theorem predChar_prCur (cp : U32) (d : DecContext) : (predChar cp d).prCur = true := rfl
@[simp] theorem predChar_prBad (cp : U32) (d : DecContext) : (predChar cp d).prBad = (d.prBad || !inGlyph cp) := rfl
@[simp] theorem predChar_pred (cp : U32) (d : DecContext) : (predChar cp d).pred = d.pred := rfl
@[simp] theorem predChar_rowLen (cp : U32) (d : DecContext) : (predChar cp d).rowLen = d.rowLen := rfl
@[simp] theorem predChar_grid (cp : U32) (d : DecContext) : (predChar cp d).grid = d.grid := rfl

@[simp] theorem predLine_state (d : DecContext) : (predLine d).state = d.state := rfl
@[simp] theorem predLine_pending (d : DecContext) : (predLine d).pending = d.pending := rfl
@[simp] theorem predLine_holdR (d : DecContext) : (predLine d).holdR = d.holdR := rfl
@[simp] theorem predLine_holdG (d : DecContext) : (predLine d).holdG = d.holdG := rfl
@[simp] theorem predLine_col (d : DecContext) : (predLine d).col = d.col := rfl
@[simp] theorem predLine_row (d : DecContext) : (predLine d).row = d.row := rfl
@[simp] theorem predLine_wmax (d : DecContext) : (predLine d).wmax = d.wmax := rfl
@[simp] theorem predLine_status (d : DecContext) : (predLine d).status = d.status := rfl
@[simp] theorem predLine_w (d : DecContext) : (predLine d).w = d.w := rfl
@[simp] theorem predLine_h (d : DecContext) : (predLine d).h = d.h := rfl
@[simp] theorem predLine_prCur (d : DecContext) : (predLine d).prCur = d.prCur := rfl
@[simp] theorem predLine_prBad (d : DecContext) : (predLine d).prBad = (d.prBad || !d.prCur) := rfl
@[simp] theorem predLine_pred (d : DecContext) : (predLine d).pred = d.pred := rfl
@[simp] theorem predLine_rowLen (d : DecContext) : (predLine d).rowLen = d.rowLen := rfl
@[simp] theorem predLine_grid (d : DecContext) : (predLine d).grid = d.grid := rfl

@[simp] theorem predBreak_state (d : DecContext) : (predBreak d).state = d.state := rfl
@[simp] theorem predBreak_pending (d : DecContext) : (predBreak d).pending = d.pending := rfl
@[simp] theorem predBreak_holdR (d : DecContext) : (predBreak d).holdR = d.holdR := rfl
@[simp] theorem predBreak_holdG (d : DecContext) : (predBreak d).holdG = d.holdG := rfl
@[simp] theorem predBreak_col (d : DecContext) : (predBreak d).col = d.col := rfl
@[simp] theorem predBreak_row (d : DecContext) : (predBreak d).row = d.row := rfl
@[simp] theorem predBreak_wmax (d : DecContext) : (predBreak d).wmax = d.wmax := rfl
@[simp] theorem predBreak_status (d : DecContext) : (predBreak d).status = d.status := rfl
@[simp] theorem predBreak_w (d : DecContext) : (predBreak d).w = d.w := rfl
@[simp] theorem predBreak_h (d : DecContext) : (predBreak d).h = d.h := rfl
@[simp] theorem predBreak_prCur (d : DecContext) : (predBreak d).prCur = false := rfl
@[simp] theorem predBreak_prBad (d : DecContext) : (predBreak d).prBad = (d.prBad || !d.prCur) := rfl
@[simp] theorem predBreak_pred (d : DecContext) : (predBreak d).pred = d.pred := rfl
@[simp] theorem predBreak_rowLen (d : DecContext) : (predBreak d).rowLen = d.rowLen := rfl
@[simp] theorem predBreak_grid (d : DecContext) : (predBreak d).grid = d.grid := rfl

@[simp] theorem openBlock_state (d : DecContext) : (openBlock d).state = .active := rfl
@[simp] theorem openBlock_pending (d : DecContext) : (openBlock d).pending = false := rfl
@[simp] theorem openBlock_holdR (d : DecContext) : (openBlock d).holdR = 0#4 := rfl
@[simp] theorem openBlock_holdG (d : DecContext) : (openBlock d).holdG = 0#4 := rfl
@[simp] theorem openBlock_col (d : DecContext) : (openBlock d).col = 0#16 := rfl
@[simp] theorem openBlock_row (d : DecContext) : (openBlock d).row = 0#16 := rfl
@[simp] theorem openBlock_wmax (d : DecContext) : (openBlock d).wmax = 0#16 := rfl
@[simp] theorem openBlock_status (d : DecContext) : (openBlock d).status = .ok := rfl
@[simp] theorem openBlock_w (d : DecContext) : (openBlock d).w = 0#16 := rfl
@[simp] theorem openBlock_h (d : DecContext) : (openBlock d).h = 0#16 := rfl
@[simp] theorem openBlock_prCur (d : DecContext) : (openBlock d).prCur = false := rfl
@[simp] theorem openBlock_prBad (d : DecContext) : (openBlock d).prBad = false := rfl
@[simp] theorem openBlock_pred (d : DecContext) : (openBlock d).pred = false := rfl
@[simp] theorem openBlock_rowLen (d : DecContext) : (openBlock d).rowLen = d.rowLen := rfl
@[simp] theorem openBlock_grid (d : DecContext) : (openBlock d).grid = d.grid := rfl

end Sys2Proof.Machine
end

