-- ==== Sys2Proof/Laws/Decoder.lean ====
section
/-! SUPPORT. What `DEC_CHAR`'s parse, `close_row` and the finalisation of `DEC_END` do, case by case. -/

namespace Sys2Proof.Machine

/-! ## The parse of one character (R90) -/

theorem parseChar_invalid (mw mh : U16) {cp : U32} (d : DecContext) (h : unpackGlyph cp = none) :
    parseChar mw mh cp d = reject .invalidGlyph d := by simp only [parseChar, h]

theorem parseChar_first (mw mh : U16) {cp : U32} {n1 n2 : Nibble} {d : DecContext} (h : unpackGlyph cp = some (n1, n2))
    (hp : d.pending = false) : parseChar mw mh cp d = { d with holdR := n1, holdG := n2, pending := true } := by
  simp [parseChar, h, hp]

theorem parseChar_overflow {mw mh : U16} {cp : U32} {n1 n2 : Nibble} {d : DecContext}
    (h : unpackGlyph cp = some (n1, n2)) (hp : d.pending = true) (ho : mw ≤ d.col ∨ mh ≤ d.row) :
    parseChar mw mh cp d = reject .gridOverflow d := by
  simp [parseChar, h, hp, ho]

theorem parseChar_second {mw mh : U16} {cp : U32} {n1 n2 : Nibble} {d : DecContext}
    (h : unpackGlyph cp = some (n1, n2)) (hp : d.pending = true) (hc : d.col < mw) (hr : d.row < mh) :
    parseChar mw mh cp d =
      { memWrite d.row d.col (decodedCell d.holdR d.holdG n1) d with col := d.col + 1#16, pending := false } := by
  have : ¬(mw ≤ d.col ∨ mh ≤ d.row) := by simp only [BitVec.not_le, not_or]; exact ⟨hc, hr⟩
  simp [parseChar, h, hp, this]

/-- The parse leaves `ROWLEN`, the rows closed and the predicate alone. -/
theorem parseChar_rowLen (mw mh : U16) (cp : U32) (d : DecContext) : (parseChar mw mh cp d).rowLen = d.rowLen := by
  unfold parseChar; split <;> (try split) <;> (try split); all_goals rfl

theorem parseChar_row (mw mh : U16) (cp : U32) (d : DecContext) : (parseChar mw mh cp d).row = d.row := by
  unfold parseChar; split <;> (try split) <;> (try split); all_goals rfl

theorem parseChar_prCur (mw mh : U16) (cp : U32) (d : DecContext) : (parseChar mw mh cp d).prCur = d.prCur := by
  unfold parseChar; split <;> (try split) <;> (try split); all_goals rfl

theorem parseChar_prBad (mw mh : U16) (cp : U32) (d : DecContext) : (parseChar mw mh cp d).prBad = d.prBad := by
  unfold parseChar; split <;> (try split) <;> (try split); all_goals rfl

/-! ## Closing a row (R92) -/

theorem closeRow_odd {d : DecContext} (h : d.pending = true) : closeRow d = reject .invalidRowLength d := by
  simp [closeRow, h]

theorem closeRow_empty {d : DecContext} (h : d.pending = false) (hc : d.col = 0#16) : closeRow d = d := by
  simp [closeRow, h, hc]

theorem closeRow_counted {d : DecContext} (h : d.pending = false) (hc : d.col ≠ 0#16) :
    closeRow d = { rowLenWrite d.row d.col d with
      wmax := if d.wmax ≤ d.col then d.col else d.wmax, row := d.row + 1#16, col := 0#16 } := by
  simp [closeRow, h, hc]

theorem closeRow_grid (d : DecContext) : (closeRow d).grid = d.grid := by
  unfold closeRow; split <;> (try split); all_goals rfl

theorem closeRow_prCur (d : DecContext) : (closeRow d).prCur = d.prCur := by
  unfold closeRow; split <;> (try split); all_goals rfl

theorem closeRow_prBad (d : DecContext) : (closeRow d).prBad = d.prBad := by
  unfold closeRow; split <;> (try split); all_goals rfl

/-- Closing a row in `ACTIVE` either finds it odd, or leaves no row open. -/
theorem closeRow_cases {d : DecContext} (h : d.state = .active) :
    ((closeRow d).state = .active ∧ (closeRow d).col = 0#16 ∧ (closeRow d).pending = false) ∨
    ((closeRow d).state = .reject ∧ (closeRow d).status = .invalidRowLength) := by
  cases hp : d.pending with
  | true => rw [closeRow_odd hp]; exact .inr ⟨rfl, rfl⟩
  | false =>
    by_cases hc : d.col = 0#16
    · rw [closeRow_empty hp hc]; exact .inl ⟨h, hc, hp⟩
    · rw [closeRow_counted hp hc]; exact .inl ⟨h, rfl, hp⟩

/-- The running maximum of R92. -/
theorem wmax_toNat (a b : U16) : (if a ≤ b then b else a).toNat = max a.toNat b.toNat := by
  split <;> rename_i h <;> rw [BitVec.le_def] at h <;> omega

/-- A coordinate below a bound of its width does not wrap (R12). -/
theorem toNat_add_one {a b : U16} (h : a < b) : (a + 1#16).toNat = a.toNat + 1 := by
  rw [BitVec.lt_def] at h; have := b.isLt; simp [BitVec.toNat_add]; omega

/-! ## The result (R107) -/

theorem finishBlock_state (d : DecContext) : (finishBlock d).state = .done := rfl

theorem finishBlock_pred (d : DecContext) : (finishBlock d).pred = !d.prBad := by
  unfold finishBlock blockResult; cases d.state <;> (simp only; try split) <;> rfl

theorem finishBlock_grid (d : DecContext) : (finishBlock d).grid = d.grid := by
  unfold finishBlock blockResult; cases d.state <;> (simp only; try split) <;> rfl

theorem finishBlock_rowLen (d : DecContext) : (finishBlock d).rowLen = d.rowLen := by
  unfold finishBlock blockResult; cases d.state <;> (simp only; try split) <;> rfl

theorem finishBlock_row (d : DecContext) : (finishBlock d).row = d.row := by
  unfold finishBlock blockResult; cases d.state <;> (simp only; try split) <;> rfl

theorem finishBlock_reject {d : DecContext} (h : d.state = .reject) :
    finishBlock d = { d with pred := !d.prBad, w := 0#16, h := 0#16, state := .done } := by
  simp only [finishBlock, blockResult, h]

theorem finishBlock_empty {d : DecContext} (h : d.state = .active) (hr : d.row = 0#16) :
    finishBlock d = { d with pred := !d.prBad, status := .emptyInput, w := 0#16, h := 0#16, state := .done } := by
  simp only [finishBlock, blockResult, h, hr, if_true]

theorem finishBlock_image {d : DecContext} (h : d.state = .active) (hr : d.row ≠ 0#16) :
    finishBlock d = { d with pred := !d.prBad, w := d.wmax, h := d.row, state := .done } := by
  simp only [finishBlock, blockResult, h, hr, if_false]

/-! ## Reads of equal stores -/

theorem memRead_congr {d d' : DecContext} (h : d.grid = d'.grid) (y x : U16) : memRead d y x = memRead d' y x := by
  simp only [memRead, h]

theorem rowLenRead_congr {d d' : DecContext} (h : d.rowLen = d'.rowLen) (y : U16) :
    rowLenRead d y = rowLenRead d' y := by
  simp only [rowLenRead, h]

end Sys2Proof.Machine
end

