-- ==== Sys2Proof/Laws/Encoder.lean ====
section
/-! SUPPORT. What the scan and `ENC_PIX` do in `ACTIVE`, as one record update each. -/

namespace Sys2Proof.Machine

/-- The encoder context after the scan has gone one pixel further (R103). -/
def EncContext.scanned (e : EncContext) : EncContext :=
  if e.x.toNat + 1 < e.w.toNat then { e with x := e.x + 1#16 }
  else { e with x := 0#16, y := e.y + 1#16, state := if e.y + 1#16 = e.h then .idle else e.state }

theorem EncContext.scanned_w (e : EncContext) : e.scanned.w = e.w := by unfold scanned; split <;> rfl

theorem EncContext.scanned_h (e : EncContext) : e.scanned.h = e.h := by unfold scanned; split <;> rfl

/-- `scan_advance` in `ACTIVE` moves the position, and emits `R_EOT` exactly when it leaves `IDLE` behind (R103). -/
theorem scanAdvance_eq {s : State} (h : s.enc.state = .active) :
    scanAdvance s = { s with
      enc := s.enc.scanned
      responses := s.responses ++ if s.enc.scanned.state = .idle then [⟨.eot, 0#32⟩] else [] } := by
  unfold scanAdvance EncContext.scanned
  split
  · simp [h]
  · simp only; split <;> simp [h, emit]

/-- The responses of an accepted `ENC_PIX` (R87): two, three or four words. -/
def EncContext.pixelResponses (e : EncContext) (r g b a : Byte) : List Response :=
  (if e.x = 0#16 then [⟨.mark, 0#32⟩] else []) ++
    [⟨.glyph, (encodePixel r g b a).1.setWidth 32⟩, ⟨.glyph, (encodePixel r g b a).2.setWidth 32⟩] ++
    if e.scanned.state = .idle then [⟨.eot, 0#32⟩] else []

theorem EncContext.length_pixelResponses (e : EncContext) (r g b a : Byte) : (e.pixelResponses r g b a).length ≤ 4 := by
  unfold pixelResponses; split <;> split <;> simp

theorem EncContext.kind_pixelResponses (e : EncContext) (r g b a : Byte) :
    ∀ q ∈ e.pixelResponses r g b a, q.kind = .mark ∨ q.kind = .glyph ∨ q.kind = .eot := by
  unfold pixelResponses; split <;> split <;> simp

/-- `ENC_PIX` in `ACTIVE` (R87): the position and the response stream change, and nothing else. -/
theorem execEncPix_active {s : State} (r g b a : Byte) (h : s.enc.state = .active) :
    execEncPix r g b a s = .next { s with
      enc := s.enc.scanned
      responses := s.responses ++ s.enc.pixelResponses r g b a } := by
  unfold EncContext.pixelResponses
  simp only [execEncPix, h]
  rw [scanAdvance_eq (by unfold emitMark; split <;> simp [h])]
  unfold emitMark
  split <;> simp [emit]

theorem execEncPix_idle {s : State} (r g b a : Byte) (h : s.enc.state = .idle) :
    execEncPix r g b a s = .next (raise .protocolError s) := by
  simp only [execEncPix, h]

end Sys2Proof.Machine
end

