-- ==== Sys2Proof/Laws/Exec.lean ====
section
/-! SUPPORT. What any command can do, said once (R4, R115, R137): it takes an interface fault and does nothing else, or it
answers, writes at most its own context and leaves the rest of the state alone. -/

namespace Sys2Proof.Machine

/-- A command that takes no fault: the state after it, and what it cannot have touched. -/
def Answers (i : Instr) (s : State) : Prop :=
  ∃ e d l, exec i s = .next { s with enc := e, dec := d, responses := s.responses ++ l } ∧
    l.length ≤ 4 ∧ (∀ r ∈ l, r.kind ≠ .fault) ∧
    (i.context ≠ .encoder → e = s.enc) ∧ (i.context ≠ .decoder → d = s.dec)

theorem answers_one {i : Instr} {s : State} {k : ResponseKind} {v : U32} (h : exec i s = .next (emit k v s))
    (hk : k ≠ .fault) : Answers i s :=
  ⟨s.enc, s.dec, [⟨k, v⟩], h, by simp, by simpa using hk, fun _ => rfl, fun _ => rfl⟩

theorem answers_enc {i : Instr} {s : State} {e : EncContext} (hi : i.context = .encoder)
    (h : exec i s = .next { s with enc := e }) : Answers i s :=
  ⟨e, s.dec, [], by simpa using h, by simp, by simp, fun hn => absurd hi hn, fun _ => rfl⟩

theorem answers_dec {i : Instr} {s : State} {d : DecContext} (hi : i.context = .decoder)
    (h : exec i s = .next { s with dec := d }) : Answers i s :=
  ⟨s.enc, d, [], by simpa using h, by simp, by simp, fun _ => rfl, fun hn => absurd hi hn⟩

theorem answers_decDone {i : Instr} {s : State} {d : DecContext} (hi : i.context = .decoder)
    (h : exec i s = .next (endBlock d s)) : Answers i s :=
  ⟨s.enc, finishBlock d, [⟨.decDone, decDoneData (finishBlock d)⟩], h, by simp, by simp, fun _ => rfl,
    fun hn => absurd hi hn⟩

theorem exec_cases (i : Instr) (s : State) : (∃ f, exec i s = .next (raise f s)) ∨ Answers i s := by
  cases i with
  | nop => exact .inr ⟨s.enc, s.dec, [], by simp [exec, execNop], by simp, by simp, fun _ => rfl, fun _ => rfl⟩
  | statRd sel =>
    cases h : selectorOk sel with
    | true => exact .inr (answers_one (k := .stat) (v := statusWord sel s) (by simp [exec, execStatRd, h]) (by simp))
    | false => exact .inl ⟨.illegalCommand, by simp [exec, execStatRd, h]⟩
  | pfwd n => exact .inr (answers_one rfl (by simp))
  | pback n => exact .inr (answers_one rfl (by simp))
  | quant v => exact .inr (answers_one rfl (by simp))
  | dequant n => exact .inr (answers_one rfl (by simp))
  | mix r g b a => exact .inr (answers_one rfl (by simp))
  | pack n1 n2 => exact .inr (answers_one rfl (by simp))
  | unpack cp =>
    cases h : unpackGlyph cp with
    | none => exact .inr (answers_one (k := .err) (v := 1#32) (by simp [exec, execUnpack, h, DecStatus.code]) (by simp))
    | some p =>
      obtain ⟨n1, n2⟩ := p
      exact .inr (answers_one (k := .val) (v := (n2 ++ n1).setWidth 32) (by simp only [exec, execUnpack, h]) (by simp))
  | encStart w h =>
    cases hs : s.enc.state with
    | active => exact .inl ⟨.protocolError, by simp only [exec, execEncStart, hs]⟩
    | idle =>
      by_cases hz : w = 0#16 ∨ h = 0#16
      · refine .inr ⟨⟨.idle, w, h, 0#16, 0#16⟩, s.dec, [⟨.eot, 0#32⟩], ?_, by simp, by simp,
          fun hn => absurd rfl hn, fun _ => rfl⟩
        simp only [exec, execEncStart, hs, hz, if_true]; rfl
      · exact .inr (answers_enc (e := ⟨.active, w, h, 0#16, 0#16⟩) rfl
          (by simp only [exec, execEncStart, hs, hz, if_false]))
  | encPix r g b a =>
    cases hs : s.enc.state with
    | idle => exact .inl ⟨.protocolError, execEncPix_idle r g b a hs⟩
    | active =>
      refine .inr ⟨s.enc.scanned, s.dec, s.enc.pixelResponses r g b a, execEncPix_active r g b a hs,
        s.enc.length_pixelResponses r g b a, fun q hq => ?_, fun hn => absurd rfl hn, fun _ => rfl⟩
      rcases s.enc.kind_pixelResponses r g b a q hq with h | h | h <;> rw [h] <;> decide
  | decStart =>
    cases hs : s.dec.state with
    | idle => exact .inr (answers_dec (d := openBlock s.dec) rfl (by simp only [exec, execDecStart, hs]))
    | active => exact .inl ⟨.protocolError, by simp only [exec, execDecStart, hs]⟩
    | reject => exact .inl ⟨.protocolError, by simp only [exec, execDecStart, hs]⟩
    | done => exact .inr (answers_dec (d := openBlock s.dec) rfl (by simp only [exec, execDecStart, hs]))
  | decChar cp =>
    cases hs : s.dec.state with
    | idle => exact .inl ⟨.protocolError, by simp only [exec, execDecChar, hs]⟩
    | active =>
      exact .inr (answers_dec (d := parseChar s.maxW s.maxH cp (predChar cp s.dec)) rfl
        (by simp only [exec, execDecChar, hs]))
    | reject => exact .inr (answers_dec (d := predChar cp s.dec) rfl (by simp only [exec, execDecChar, hs]))
    | done => exact .inl ⟨.protocolError, by simp only [exec, execDecChar, hs]⟩
  | decBreak =>
    cases hs : s.dec.state with
    | idle => exact .inl ⟨.protocolError, by simp only [exec, execDecBreak, hs]⟩
    | active =>
      exact .inr (answers_dec (d := closeRow (predBreak s.dec)) rfl (by simp only [exec, execDecBreak, hs]))
    | reject => exact .inr (answers_dec (d := predBreak s.dec) rfl (by simp only [exec, execDecBreak, hs]))
    | done => exact .inl ⟨.protocolError, by simp only [exec, execDecBreak, hs]⟩
  | decEnd =>
    cases hs : s.dec.state with
    | idle => exact .inl ⟨.protocolError, by simp only [exec, execDecEnd, hs]⟩
    | active =>
      exact .inr (answers_decDone (d := closeRow (predLine s.dec)) rfl (by simp only [exec, execDecEnd, hs]))
    | reject => exact .inr (answers_decDone (d := predLine s.dec) rfl (by simp only [exec, execDecEnd, hs]))
    | done => exact .inl ⟨.protocolError, by simp only [exec, execDecEnd, hs]⟩
  | gridRd x y =>
    by_cases h1 : s.dec.state ≠ .done ∨ s.dec.status ≠ .ok
    · exact .inl ⟨.protocolError, by simp only [exec, execGridRd]; rw [if_pos h1]⟩
    · by_cases h2 : s.dec.w ≤ x ∨ s.dec.h ≤ y
      · exact .inl ⟨.addressError, by simp only [exec, execGridRd]; rw [if_neg h1, if_pos h2]⟩
      · exact .inr (answers_one (k := .pix) (v := gridWord s.dec y x)
          (by simp only [exec, execGridRd]; rw [if_neg h1, if_neg h2]) (by simp))

/-- A command outside the encoder context leaves it alone (R115). -/
theorem exec_enc {i : Instr} {s t : State} (h : exec i s = .next t) (hi : i.context ≠ .encoder) : t.enc = s.enc := by
  rcases exec_cases i s with ⟨f, h'⟩ | ⟨e, d, l, h', -, -, he, -⟩
  · rw [h] at h'; cases h'; rfl
  · rw [h] at h'; cases h'; exact he hi

/-- A command outside the decoder context leaves it alone (R115). -/
theorem exec_dec {i : Instr} {s t : State} (h : exec i s = .next t) (hi : i.context ≠ .decoder) : t.dec = s.dec := by
  rcases exec_cases i s with ⟨f, h'⟩ | ⟨e, d, l, h', -, -, -, hd⟩
  · rw [h] at h'; cases h'; rfl
  · rw [h] at h'; cases h'; exact hd hi

/-- No command changes the capacity or the command stream (R24, R39). -/
theorem exec_maxW {i : Instr} {s t : State} (h : exec i s = .next t) : t.maxW = s.maxW := by
  rcases exec_cases i s with ⟨f, h'⟩ | ⟨e, d, l, h', -⟩ <;> (rw [h] at h'; cases h'; rfl)

theorem exec_maxH {i : Instr} {s t : State} (h : exec i s = .next t) : t.maxH = s.maxH := by
  rcases exec_cases i s with ⟨f, h'⟩ | ⟨e, d, l, h', -⟩ <;> (rw [h] at h'; cases h'; rfl)

theorem exec_commands {i : Instr} {s t : State} (h : exec i s = .next t) : t.commands = s.commands := by
  rcases exec_cases i s with ⟨f, h'⟩ | ⟨e, d, l, h', -⟩ <;> (rw [h] at h'; cases h'; rfl)

end Sys2Proof.Machine
end

