-- ==== Sys2Proof/Laws/PerInstr.lean ====
section
/-! SUPPORT. Per-command facts of the encoding: the word of each command meets the mask and match of its own row of
spec/opcode_table.json (R44), and its operand field has no reserved bit set (R41). -/

namespace Sys2Proof.Laws.TableRow

/-- The reserved `arg` bits of a command's format (R41). -/
def reserved : Instr → U32
  | .nop => 0xFFFFFFFF#32
  | .statRd _ => 0xFFFFFF00#32
  | .pfwd _ => 0xFFFFFFF0#32
  | .pback _ => 0xFFFFFFF0#32
  | .quant _ => 0xFFFFFF00#32
  | .dequant _ => 0xFFFFFFF0#32
  | .mix _ _ _ _ => 0#32
  | .pack _ _ => 0xFFFFFF00#32
  | .unpack _ => 0#32
  | .encStart _ _ => 0#32
  | .encPix _ _ _ _ => 0#32
  | .decStart => 0xFFFFFFFF#32
  | .decChar _ => 0#32
  | .decBreak => 0xFFFFFFFF#32
  | .decEnd => 0xFFFFFFFF#32
  | .gridRd _ _ => 0#32

/-- "A command's `match` is `op << 32`; its `mask` is 0xFF00000000 plus every reserved `arg` bit of its format" (R44). -/
def Statement (i : Instr) : Prop :=
  encode i &&& (0xFF#8 ++ reserved i) = i.op ++ 0#32 ∧ i.arg &&& reserved i = 0#32

/-! ## The two parts of a masked word -/

theorem append_and_append {n m : Nat} (a c : BitVec n) (b d : BitVec m) :
    (a ++ b) &&& (c ++ d) = (a &&& c) ++ (b &&& d) := by
  ext i hi; simp [BitVec.getElem_append]

theorem and_allOnes_byte : ∀ o : Byte, o &&& 0xFF#8 = o := by decide

theorem word_and (o : Byte) (a m : U32) (h : a &&& m = 0#32) : (o ++ a : U40) &&& (0xFF#8 ++ m) = o ++ 0#32 := by
  refine (append_and_append o 0xFF#8 a m).trans ?_
  rw [and_allOnes_byte, h]

theorem statement_of {i : Instr} (h : i.arg &&& reserved i = 0#32) : Statement i := ⟨word_and i.op i.arg _ h, h⟩

theorem nibble_and (n : Nibble) : (0#28 ++ n : U32) &&& 0xFFFFFFF0#32 = 0#32 :=
  (and_high_mask_eq_zero (k := 4) (by decide) _).2 (by
    rw [show (0#28 ++ n : U32).toNat = _ from toNat_append (0#28) n]; simp; omega)

theorem byte_and (v : Byte) : (0#24 ++ v : U32) &&& 0xFFFFFF00#32 = 0#32 :=
  (and_high_mask_eq_zero (k := 8) (by decide) _).2 (by
    rw [show (0#24 ++ v : U32).toNat = _ from toNat_append (0#24) v]; simp; omega)

theorem nibbles_and (n1 n2 : Nibble) : (0#24 ++ n2 ++ n1 : U32) &&& 0xFFFFFF00#32 = 0#32 :=
  (and_high_mask_eq_zero (k := 8) (by decide) _).2 (by
    rw [show (0#24 ++ n2 ++ n1 : U32).toNat = _ from toNat_append (0#24 ++ n2) n1, toNat_append]; simp; omega)

/-! ## The commands -/

theorem nop : Statement .nop := statement_of rfl
theorem statRd (sel : Byte) : Statement (.statRd sel) := statement_of (byte_and sel)
theorem pfwd (n : Nibble) : Statement (.pfwd n) := statement_of (nibble_and n)
theorem pback (n : Nibble) : Statement (.pback n) := statement_of (nibble_and n)
theorem quant (v : Byte) : Statement (.quant v) := statement_of (byte_and v)
theorem dequant (n : Nibble) : Statement (.dequant n) := statement_of (nibble_and n)
theorem mix (r g b a : Byte) : Statement (.mix r g b a) := statement_of BitVec.and_zero
theorem pack (n1 n2 : Nibble) : Statement (.pack n1 n2) := statement_of (nibbles_and n1 n2)
theorem unpack (cp : U32) : Statement (.unpack cp) := statement_of BitVec.and_zero
theorem encStart (w h : U16) : Statement (.encStart w h) := statement_of BitVec.and_zero
theorem encPix (r g b a : Byte) : Statement (.encPix r g b a) := statement_of BitVec.and_zero
theorem decStart : Statement .decStart := statement_of rfl
theorem decChar (cp : U32) : Statement (.decChar cp) := statement_of BitVec.and_zero
theorem decBreak : Statement .decBreak := statement_of rfl
theorem decEnd : Statement .decEnd := statement_of rfl
theorem gridRd (x y : U16) : Statement (.gridRd x y) := statement_of BitVec.and_zero

end Sys2Proof.Laws.TableRow
end

