-- ==== Sys2Proof/Laws/Step.lean ====
section
/-! SUPPORT. What one step and one run can do, said once: later proofs cite these and do not unfold `step`. -/

namespace Sys2Proof.Machine

theorem step_of_no_command {s : State} (h : s.commands = []) : step s = .next s := by simp [step, fetch, h]

theorem step_of_command {s : State} {c : U40} {rest : List U40} (h : s.commands = c :: rest) :
    step s = match decode c with
      | .ok i => exec i { s with commands := rest }
      | .error _ => .next (raise .illegalCommand { s with commands := rest }) := by
  cases h' : decode c <;> simp [step, fetch, h, h']

theorem step_pushCommand (c : U40) (s : State) :
    step (pushCommand c s) = match decode c with
      | .ok i => exec i s
      | .error _ => .next (raise .illegalCommand s) := rfl

/-- Everything a step that answers a next state can have done. -/
theorem step_cases {s t : State} (h : step s = .next t) :
    (s.commands = [] ∧ t = s) ∨
    ∃ c rest, s.commands = c :: rest ∧
      ((∃ i, decode c = .ok i ∧ exec i { s with commands := rest } = .next t) ∨
       ((∀ i, decode c ≠ .ok i) ∧ t = raise .illegalCommand { s with commands := rest })) := by
  cases hc : s.commands with
  | nil => rw [step_of_no_command hc] at h; cases h; exact .inl ⟨rfl, rfl⟩
  | cons c rest =>
    rw [step_of_command hc] at h
    refine .inr ⟨c, rest, rfl, ?_⟩
    cases hd : decode c with
    | ok i => rw [hd] at h; exact .inl ⟨i, rfl, h⟩
    | error e => rw [hd] at h; cases h; exact .inr ⟨fun i hi => (nomatch hi), rfl⟩

theorem runWord_of_ok {c : U40} {i : Instr} (h : decode c = .ok i) (s : State) : runWord c s = exec i s := by
  rw [runWord, step_pushCommand, h]

theorem runWords_append (a b : List U40) {s t : State} (h : runWords a s = .next t) :
    runWords (a ++ b) s = runWords b t := by
  induction a generalizing s with
  | nil => cases h; rfl
  | cons c a ih =>
    simp only [runWords, List.cons_append] at h ⊢
    cases hc : runWord c s with
    | next s' => rw [hc] at h; exact ih h
    | fault r => exact nomatch r
    | refused r => rw [hc] at h; cases h

/-- A run of assembled commands goes command by command, for a command that the decoder reads back. -/
theorem runInstrs_cons {i : Instr} (hi : decode (encode i) = .ok i) (is : List Instr) {s s' : State}
    (h : exec i s = .next s') : runInstrs (i :: is) s = runInstrs is s' := by
  simp only [runInstrs, List.map_cons, runWords, runWord_of_ok hi, h]

theorem runInstrs_append (a b : List Instr) {s t : State} (h : runInstrs a s = .next t) :
    runInstrs (a ++ b) s = runInstrs b t := by
  rw [runInstrs, List.map_append]; exact runWords_append _ _ h

/-- The responses of a run are those that its state lists beyond the launch state's. -/
theorem newResponses_eq {s t : State} {l : List Response} (h : t.responses = s.responses ++ l) :
    newResponses s t = l := by
  simp [newResponses, h]

end Sys2Proof.Machine
end

