-- ==== Sys2Proof/Laws/Units.lean ====
section
/-! SUPPORT. The leaf units: what each function gives, over its whole range. -/

namespace Sys2Proof.Machine

/-- The tables are inverse to each other (R60, R61). -/
theorem pback_pfwd : ∀ n : Nibble, pback (pfwd n) = n := by decide

theorem pfwd_pback : ∀ n : Nibble, pfwd (pback n) = n := by decide

/-- The alphabet as a range of numbers (R50). -/
theorem inGlyph_iff (cp : U32) : inGlyph cp = true ↔ 0x2800 ≤ cp.toNat ∧ cp.toNat ≤ 0x28FF := by
  simp [inGlyph, Config.glyphBase, Config.glyphLast, BitVec.le_def]

/-- A glyph is the byte 0x28 above its offset (R50). -/
theorem exists_offset {cp : U32} (h : inGlyph cp = true) : ∃ s : Byte, cp = 0x28#24 ++ s := by
  obtain ⟨h1, h2⟩ := (inGlyph_iff cp).1 h
  refine ⟨cp.extractLsb' 0 8, BitVec.eq_of_toNat_eq ?_⟩
  rw [show (0x28#24 ++ cp.extractLsb' 0 8 : U32).toNat = _ from toNat_append _ _]
  simp; omega

theorem unpackGlyph_of_not_inGlyph {cp : U32} (h : inGlyph cp = false) : unpackGlyph cp = none := by
  simp [unpackGlyph, h]

theorem unpackGlyph_isSome (cp : U32) : (unpackGlyph cp).isSome = inGlyph cp := by
  unfold unpackGlyph; cases inGlyph cp <;> rfl

/-- A packed glyph is in the alphabet (R76). -/
theorem inGlyph_packGlyph : ∀ n1 n2 : Nibble, inGlyph ((packGlyph n1 n2).setWidth 32) = true := by decide +kernel

/-- A channel of the decoded cell word (R32, R89). -/
theorem decodedCell_toNat (nr ng nb : Nibble) :
    (decodedCell nr ng nb).toNat =
      (dequantize nr).toNat + 256 * (dequantize ng).toNat + 65536 * (dequantize nb).toNat + 16777216 * 255 := by
  unfold decodedCell pix
  rw [show (Config.alphaDefault ++ dequantize nb ++ dequantize ng ++ dequantize nr : U32).toNat = _ from
    toNat_append (Config.alphaDefault ++ dequantize nb ++ dequantize ng) (dequantize nr), toNat_append, toNat_append]
  simp only [Config.alphaDefault, BitVec.toNat_ofNat]
  omega

end Sys2Proof.Machine
end

