-- ==== Sys2Proof/Tests/Slice0.lean ====
section
/-! SUPPORT. The model's own tests. Every expected value is copied from spec/ (the examples of the command rules and
95_test_vectors.md, named at each test), and no test runs more than one command. The second half shows, for each obligation
that has hypotheses, states and operands that meet them, clause by clause. -/

open Sys2Proof Sys2Proof.Machine Sys2Proof.Spec

namespace Sys2Proof.Tests

/-! ## States -/

/-- The reset state with `MAXW = MAXH = 4`, the capacity of the programs of 95_test_vectors.md section 3. -/
def base : State := { State.reset with maxW := 4#16, maxH := 4#16 }

def withEnc (e : EncContext) : State := { base with enc := e }

def withDec (d : DecContext) : State := { base with dec := d }

/-- A block just opened. -/
def opened : DecContext := openBlock DecContext.reset

/-- A block after its first glyph U+2847 (R90, example). -/
def halfPixel : DecContext := { opened with pending := true, holdR := 15#4, prCur := true }

/-- A block after U+2847 U+2828: one pixel, row not closed (R90, example). -/
def onePixel : DecContext :=
  { opened with holdR := 15#4, col := 1#16, prCur := true, grid := [(0, 0xFF000078#32)] }

/-- A block rejected by its first character (program P3). -/
def rejected : DecContext := { opened with state := .reject, status := .invalidGlyph, prCur := true, prBad := true }

/-- The result of the ragged block of program P4. -/
def ragged : DecContext :=
  { opened with
      state := .done, holdR := 15#4, holdG := 15#4, row := 2#16, wmax := 2#16, w := 2#16, h := 2#16, prBad := true,
      rowLen := [(0, 2#16), (1, 1#16)],
      grid := [(0, 0xFF282018#32), (1, 0xFF306048#32), (65536, 0xFF787878#32)] }

/-- The state after one command word, if there is one. -/
def after (w : U40) (s : State) : Option State :=
  match runWord w s with
  | .next t => some t
  | .fault _ => none
  | .refused _ => none

/-- The response words of one command word. -/
def answer (w : U40) (s : State) : Option (List U40) :=
  (after w s).map fun t => (newResponses s t).map Response.word

/-! ## Well-formedness -/

/-- The one check refuses an ill-formed command: a reserved selector (R24, R46). -/
theorem test_statRd_reserved_selector_ill_formed : (Instr.statRd 0x09#8).wellFormed = false := by decide

theorem test_statRd_last_selector_well_formed : (Instr.statRd 0x08#8).wellFormed = true := by decide

/-! ## Decoding: a word for each command (95_test_vectors.md sections 2 and 3; each field at its own value) -/

theorem test_decode_nop : decode 0x0000000000#40 = .ok .nop := by decide
theorem test_decode_statRd : decode 0x0100000006#40 = .ok (.statRd 0x06#8) := by decide
theorem test_decode_pfwd : decode 0x1000000007#40 = .ok (.pfwd 7#4) := by decide
theorem test_decode_pback : decode 0x110000000D#40 = .ok (.pback 13#4) := by decide
theorem test_decode_quant : decode 0x12000000C8#40 = .ok (.quant 200#8) := by decide
theorem test_decode_dequant : decode 0x1300000005#40 = .ok (.dequant 5#4) := by decide
theorem test_decode_mix : decode 0x148281FF80#40 = .ok (.mix 128#8 255#8 129#8 130#8) := by decide
theorem test_decode_pack : decode 0x1500000050#40 = .ok (.pack 0#4 5#4) := by decide
theorem test_decode_unpack : decode 0x1600012847#40 = .ok (.unpack 0x12847#32) := by decide
theorem test_decode_encStart : decode 0x2000050003#40 = .ok (.encStart 3#16 5#16) := by decide
theorem test_decode_encPix : decode 0x2104030201#40 = .ok (.encPix 1#8 2#8 3#8 4#8) := by decide
theorem test_decode_decStart : decode 0x3000000000#40 = .ok .decStart := by decide
theorem test_decode_decChar : decode 0x3100002847#40 = .ok (.decChar 0x2847#32) := by decide
theorem test_decode_decBreak : decode 0x3200000000#40 = .ok .decBreak := by decide
theorem test_decode_decEnd : decode 0x3300000000#40 = .ok .decEnd := by decide
theorem test_decode_gridRd : decode 0x3400010002#40 = .ok (.gridRd 2#16 1#16) := by decide

/-- 95_test_vectors.md section 2.6: the reserved words. -/
theorem test_decode_reserved_op :
    decode 0x0200000000#40 = .error .reservedOp ∧ decode 0x1700000000#40 = .error .reservedOp ∧
    decode 0x2200000000#40 = .error .reservedOp ∧ decode 0x3500000000#40 = .error .reservedOp ∧
    decode 0xFFFFFFFFFF#40 = .error .reservedOp := by decide

theorem test_decode_reserved_arg :
    decode 0x0000000001#40 = .error .reservedArgBits ∧ decode 0x0100000100#40 = .error .reservedArgBits ∧
    decode 0x1200000100#40 = .error .reservedArgBits ∧ decode 0x1300000010#40 = .error .reservedArgBits ∧
    decode 0x1500000100#40 = .error .reservedArgBits ∧ decode 0x3000000001#40 = .error .reservedArgBits := by decide

theorem test_encode_encPix : encode (.encPix 255#8 0#8 0#8 255#8) = 0x21FF0000FF#40 := by decide

/-- A row's word, given as the opcode table numbers it, is decoded and is run by the first step after reset. -/
theorem test_table_word : decodeTableWord 40 0x1000000007 = some (.pfwd 7#4) := by decide

theorem test_first_step : step (State.reset.withFetchWord 40 0x1000000007) = exec (.pfwd 7#4) State.reset := rfl

/-! ## One command each -/

/-- Section 2.6. -/
theorem test_nop : after 0x0000000000#40 base = some base := by decide

/-- Section 2.6: a reserved bit of `NOP`. -/
theorem test_nop_reserved_bit :
    answer 0x0000000001#40 base = some [0x0F00000001#40] ∧
    (after 0x0000000001#40 base).map (·.fault) = some 1#3 := by decide

/-- Program P5: `STAT_RD 0x08` with a pending glyph and `dec_wmax` = 1. -/
theorem test_statRd_hold :
    answer 0x0100000008#40 (withDec { opened with pending := true, wmax := 1#16 }) = some [0x0800010100#40] := by decide

/-- Section 2.6: a reserved selector. -/
theorem test_statRd_reserved : answer 0x0100000009#40 base = some [0x0F00000001#40] := by decide

/-- R62. -/
theorem test_pfwd : answer 0x1000000007#40 base = some [0x010000000D#40] := by decide

/-- R63. -/
theorem test_pback : answer 0x110000000D#40 base = some [0x0100000007#40] := by decide

/-- R64, and section 1.10: bit 7 and bits 2:0 are discarded. -/
theorem test_quant : answer 0x12000000C8#40 base = some [0x0100000005#40] := by decide

theorem test_quant_discarded_bits :
    answer 0x12000000F8#40 base = some [0x010000000F#40] ∧ answer 0x1200000080#40 base = some [0x0100000000#40] := by
  decide

/-- Section 2.1. -/
theorem test_dequant :
    answer 0x1300000005#40 base = some [0x0100000048#40] ∧ answer 0x130000000D#40 base = some [0x0100000038#40] := by
  decide

/-- Section 2.2: red to bit 6, green to bit 5, blue to bit 4, alpha to bit 3. -/
theorem test_mix :
    answer 0x1400000080#40 base = some [0x0100000040#40] ∧ answer 0x1400008000#40 base = some [0x0100000020#40] ∧
    answer 0x1400800000#40 base = some [0x0100000010#40] ∧ answer 0x1480000000#40 base = some [0x0100000008#40] := by
  decide

/-- Section 2.3. -/
theorem test_pack :
    answer 0x1500000050#40 base = some [0x0100002828#40] ∧ answer 0x1500000008#40 base = some [0x0100002840#40] ∧
    answer 0x1500000080#40 base = some [0x0100002880#40] := by decide

/-- Section 2.3. -/
theorem test_unpack :
    answer 0x1600002828#40 base = some [0x0100000050#40] ∧ answer 0x1600002847#40 base = some [0x010000000F#40] := by
  decide

/-- Section 2.3: both ends of the alphabet, and the comparison on all 32 bits. -/
theorem test_unpack_invalid :
    answer 0x16000027FF#40 base = some [0x0200000001#40] ∧ answer 0x1600002900#40 base = some [0x0200000001#40] ∧
    answer 0x1600012847#40 base = some [0x0200000001#40] := by decide

/-- R102, example. -/
theorem test_encStart :
    answer 0x2000010002#40 base = some [] ∧
    (after 0x2000010002#40 base).map (·.enc) = some ⟨.active, 2#16, 1#16, 0#16, 0#16⟩ := by decide

/-- Section 2.5: a grid of zero area. -/
theorem test_encStart_zero_area :
    answer 0x2000050000#40 base = some [0x0500000000#40] ∧
    (after 0x2000050000#40 base).map (·.enc) = some ⟨.idle, 0#16, 5#16, 0#16, 0#16⟩ := by decide

/-- R87, example: the one pixel of a 1 × 1 grid. -/
theorem test_encPix_single :
    answer 0x21FF0000FF#40 (withEnc ⟨.active, 1#16, 1#16, 0#16, 0#16⟩) =
      some [0x0300000000#40, 0x0400002847#40, 0x0400002828#40, 0x0500000000#40] := by decide

/-- Section 2.4: the second pixel of a 2 × 2 grid, with the glyphs of pixel (200, 100, 50, 0). -/
theorem test_encPix_row_end :
    answer 0x21003264C8#40 (withEnc ⟨.active, 2#16, 2#16, 1#16, 0#16⟩) = some [0x0400002895#40, 0x0400002861#40] ∧
    (after 0x21003264C8#40 (withEnc ⟨.active, 2#16, 2#16, 1#16, 0#16⟩)).map (·.enc) =
      some ⟨.active, 2#16, 2#16, 0#16, 1#16⟩ := by decide

/-- R105: a block opened after an earlier result. -/
theorem test_decStart :
    (after 0x3000000000#40 (withDec ragged)).map (fun t => decRegisters t.dec) =
      some { DecContext.reset with state := .active } := by decide

/-- Program P6: a block that is already open. -/
theorem test_decStart_open : answer 0x3000000000#40 (withDec rejected) = some [0x0F00000002#40] := by decide

/-- R90, example: the first glyph. -/
theorem test_decChar_first : after 0x3100002847#40 (withDec opened) = some (withDec halfPixel) := by decide

/-- R90, example: the second glyph. -/
theorem test_decChar_second : after 0x3100002828#40 (withDec halfPixel) = some (withDec onePixel) := by decide

/-- R91, example. -/
theorem test_decBreak :
    (after 0x3200000000#40 (withDec { opened with prCur := true, col := 2#16 })).map (·.dec) =
      some { opened with row := 1#16, wmax := 2#16, rowLen := [(0, 2#16)] } := by decide

/-- Program P5: an odd row. -/
theorem test_decBreak_odd :
    (after 0x3200000000#40 (withDec halfPixel)).map (fun t => (t.dec.state, t.dec.status)) =
      some (.reject, .invalidRowLength) := by decide

/-- R107, example. -/
theorem test_decEnd :
    answer 0x3300000000#40 (withDec onePixel) = some [0x0600000010#40] ∧
    (after 0x3300000000#40 (withDec onePixel)).map (fun t => (t.dec.w, t.dec.h, t.dec.rowLen)) =
      some (1#16, 1#16, [(0, 1#16)]) := by decide

/-- Section 2.5: no symbols, and section 1.5: one glyph. -/
theorem test_decEnd_errors :
    answer 0x3300000000#40 (withDec opened) = some [0x0600000003#40] ∧
    answer 0x3300000000#40 (withDec halfPixel) = some [0x0600000012#40] := by decide

/-- Program P4. -/
theorem test_gridRd :
    answer 0x3400000001#40 (withDec ragged) = some [0x07FF306048#40] ∧
    answer 0x3400010001#40 (withDec ragged) = some [0x0700000000#40] := by decide

/-- Program P4 and section 2.6. -/
theorem test_gridRd_faults :
    answer 0x3400000002#40 (withDec ragged) = some [0x0F00000004#40] ∧
    answer 0x3400000000#40 base = some [0x0F00000002#40] := by decide

/-- Program P7: `MAXW` = 1, the second pixel of a row. -/
theorem test_grid_overflow :
    (after 0x3100002828#40 { withDec { onePixel with pending := true } with maxW := 1#16, maxH := 1#16 }).map
      (fun t => (t.dec.state, t.dec.status, t.dec.pending)) = some (.reject, .gridOverflow, true) := by decide

/-- Section 2.5: `tokenize` on a marker, on an incomplete tag and on a carriage return. -/
theorem test_tokenize :
    tokenize [0x5B#32, 0x62#32, 0x72#32, 0x5D#32, 0x0A#32, 0x2847#32] = [.brk, .brk, .char 0x2847#32] ∧
    tokenize [0x5B#32, 0x62#32, 0x72#32] = [.char 0x5B#32, .char 0x62#32, .char 0x72#32] ∧
    tokenize [0x0D#32, 0x0A#32] = [.char 0x0D#32, .brk] := by decide

/-- The host's three acts (R159): words are consumed in the order issued, responses are drained oldest first, and reset
empties the response stream. -/
theorem test_host :
    (hostIssue [0x0000000000#40, 0x1000000007#40] base).commands = [0x0000000000#40, 0x1000000007#40] ∧
    (hostDrain { base with responses := [⟨.eot, 0#32⟩, ⟨.val, 1#32⟩] }).1 = some ⟨.eot, 0#32⟩ ∧
    hostReset { withDec ragged with fault := 5#3, responses := [⟨.eot, 0#32⟩] } = base := by decide

/-! ## Witnesses: states and operands that meet the hypotheses of each obligation, clause by clause, at the ends of their
ranges -/

/-- An encoder one pixel before the end of a 65535 × 65535 grid. -/
def lastPixel : State := withEnc ⟨.active, 65535#16, 65535#16, 65534#16, 65534#16⟩

/-- The largest capacity of R6. -/
def large (d : DecContext) : State := { withDec d with maxW := 65535#16, maxH := 65535#16 }

/-- The two rows of `ragged`. -/
theorem lt_two {y : U16} (h : y < 2#16) : y = 0#16 ∨ y = 1#16 := by bv_omega

theorem lt_one {y : U16} (h : y < 1#16) : y = 0#16 := by bv_omega

theorem encContext_reset_inv : EncContext.Inv EncContext.reset := ⟨by decide, by decide⟩

theorem lastPixel_inv : EncContext.Inv lastPixel.enc := ⟨by decide, by decide⟩

theorem firstPixel_inv : EncContext.Inv ⟨.active, 1#16, 1#16, 0#16, 0#16⟩ := ⟨by decide, by decide⟩

/-- `ragged` has one row as wide as its grid and one shorter, and it fills a store of 2 × 2 cells. -/
theorem ragged_dec_inv : DecContext.Inv 2#16 2#16 ragged where
  gridWf := by decide
  rowLenWf := by decide
  gridCells := by unfold storedPixel; decide
  rowLenCells := by decide
  colLe := by decide
  rowLe := by decide
  wmaxLe := by decide
  rowLt := by decide
  rows := fun y h => by
    obtain rfl | rfl := lt_two h
    · exact ⟨2#16, by decide, by decide, by decide⟩
    · exact ⟨1#16, by decide, by decide, by decide⟩
  widest := fun _ => ⟨0#16, by decide, by decide⟩
  wmaxZero := by decide
  cells := fun y n h hn x hx => by
    obtain rfl | rfl := lt_two h
    · obtain rfl : 2#16 = n := Option.some.inj hn
      obtain rfl | rfl := lt_two hx
      · exact ⟨0xFF282018#32, by decide⟩
      · exact ⟨0xFF306048#32, by decide⟩
    · obtain rfl : 1#16 = n := Option.some.inj hn
      obtain rfl := lt_one hx
      exact ⟨0xFF787878#32, by decide⟩
  rowCells := fun x h => absurd h (by simp [ragged, opened, openBlock, DecContext.reset])
  idle := by decide
  active := by decide
  reject := by decide
  doneOk := by decide
  doneErr := by decide
  donePred := by decide

/-- A store that `ragged` fills. -/
def full : State := { withDec ragged with maxW := 2#16, maxH := 2#16 }

theorem full_inv : full.Inv := ⟨by decide, by decide, encContext_reset_inv, ragged_dec_inv⟩

/-- EncodeInvertsDecode. -/
theorem witness_encodeInvertsDecode : decode 0x21FF00807F#40 = .ok (.encPix 0x7F#8 0x80#8 0#8 0xFF#8) := by decide

/-- StepRunsTheDecodedCommand: a command next, and none. -/
theorem witness_stepRuns :
    (full.withFetchWord 40 0x3400010001).commands = [0x3400010001#40] ∧
    decode 0x3400010001#40 = .ok (.gridRd 1#16 1#16) ∧ full.commands = [] := by decide

/-- ReservedWordsRaiseIllegalCommand: both ends of each range, the lowest reserved bit of each format, and the first and the
last reserved selector. -/
theorem witness_reservedOps :
    ∀ op ∈ [0x02, 0x0F, 0x17, 0x1F, 0x22, 0x2F, 0x35, 0xFF], reservedOp op := by unfold reservedOp; decide

theorem witness_assignedOps :
    ∀ op ∈ [0x00, 0x01, 0x10, 0x16, 0x20, 0x21, 0x30, 0x34], ¬reservedOp op := by unfold reservedOp; decide

theorem witness_reservedBits :
    (∀ p ∈ operandBits, 2 ^ p.2 ≤ (BitVec.ofNat 32 (2 ^ p.2)).toNat) ∧ operandBits ≠ [] ∧ 0x08 < (0x09#8).toNat ∧
    0x08 < (0xFF#8).toNat := by decide

/-- The hypothesis `step s = .next t` of StepsAppendAtMostFourResponses, FaultBitsAreSticky and StepsKeepTheInvariant. -/
theorem witness_step : ∃ t, step (full.withFetchWord 40 0x3400010001) = .next t := ⟨_, rfl⟩

theorem witness_stepsKeepTheInvariant : (full.withFetchWord 40 0x3400010001).Inv :=
  ⟨by decide, by decide, encContext_reset_inv, ragged_dec_inv⟩

/-- HostResetKeepsTheInvariant. -/
theorem witness_hostReset : full.Inv := full_inv

/-- The operand hypotheses of the leaf and system commands: the first and last value of each clause. -/
theorem witness_statRd :
    (0x00#8).toNat ≤ 8 ∧ (0x08#8).toNat ≤ 8 ∧ 8 < (0x09#8).toNat ∧ 8 < (0xFF#8).toNat ∧ 256 ≤ (0x100#32).toNat := by
  decide

theorem witness_reservedArg :
    1#32 ≠ 0#32 ∧ 0x80000000#32 ≠ 0#32 ∧ 16 ≤ (0x10#32).toNat ∧ 256 ≤ (0x100#32).toNat ∧
    256 ≤ (0xFFFFFFFF#32).toNat := by decide

theorem witness_isGlyph : isGlyph 0x2800#32 ∧ isGlyph 0x28FF#32 ∧ ¬isGlyph 0x27FF#32 ∧ ¬isGlyph 0x2900#32 := by
  unfold isGlyph; decide

/-- EncStartOpensAGrid. -/
theorem witness_encStart :
    lastPixel.enc.state = .active ∧ base.enc.state = .idle ∧ 1#16 ≠ 0#16 ∧ 65535#16 ≠ 0#16 ∧
    (0#16 = 0#16 ∨ 65535#16 = 0#16) ∧ (65535#16 = 0#16 ∨ 0#16 = 0#16) := by decide

/-- EncPixEmitsGlyphsAndAdvances: the last pixel of the largest grid, and the only pixel of the smallest. -/
theorem witness_encPix :
    lastPixel.enc.state = .active ∧ EncContext.Inv lastPixel.enc ∧
    EncContext.Inv (withEnc ⟨.active, 1#16, 1#16, 0#16, 0#16⟩).enc ∧ base.enc.state = .idle :=
  ⟨rfl, lastPixel_inv, firstPixel_inv, rfl⟩

/-- EncodeGridEmitsTheTextImage: a row of no pixels, a row of one, and no row at all. -/
theorem witness_encodeGrid :
    base.EncodeReady ∧ (∀ row ∈ ([[]] : List (List Pixel)), row.length = 0) ∧
    (∀ row ∈ [[(⟨1#8, 2#8, 3#8, 4#8⟩ : Pixel)]], row.length = 1) ∧ (∀ row ∈ ([] : List (List Pixel)), row.length = 65535) :=
  ⟨rfl, by decide, by decide, by decide⟩

/-- DecStartOpensABlock. -/
theorem witness_decStart :
    base.dec.state = .idle ∧ full.dec.state = .done ∧ (withDec opened).dec.state = .active ∧
    (withDec rejected).dec.state = .reject := by decide

/-- DecCharParsesOneCharacter: the states of its clauses; the last cell that fits, the first that does not on either side,
and both in the largest store. -/
theorem witness_decChar :
    (withDec opened).dec.pending = false ∧ (withDec halfPixel).dec.state = .active ∧
    (withDec halfPixel).dec.pending = true ∧
    ({ withDec halfPixel with maxW := 1#16 }.dec.col < 1#16 ∧ (withDec halfPixel).dec.row < 1#16) ∧
    (withDec { halfPixel with col := 4#16 }).maxW ≤ (withDec { halfPixel with col := 4#16 }).dec.col ∧
    (withDec { halfPixel with row := 4#16 }).maxH ≤ (withDec { halfPixel with row := 4#16 }).dec.row ∧
    (large { halfPixel with col := 65534#16 }).dec.col < (large { halfPixel with col := 65534#16 }).maxW ∧
    (large { halfPixel with row := 65534#16 }).dec.row < (large { halfPixel with row := 65534#16 }).maxH ∧
    (large { halfPixel with col := 65535#16 }).maxW ≤ (large { halfPixel with col := 65535#16 }).dec.col := by decide

/-- DecBreakClosesTheRow: a rejected block, an odd row, an empty row, and a row with a pixel in the last row of a store. -/
theorem witness_decBreak :
    (withDec rejected).dec.state = .reject ∧ (withDec halfPixel).dec.pending = true ∧
    (withDec opened).dec.pending = false ∧ (withDec opened).dec.col = 0#16 ∧ (withDec onePixel).dec.pending = false ∧
    (withDec onePixel).dec.col ≠ 0#16 ∧ (withDec onePixel).dec.row < (withDec onePixel).maxH ∧
    (large { onePixel with row := 65534#16 }).dec.row < (large { onePixel with row := 65534#16 }).maxH := by decide

/-- DecEndFixesTheResult: as for `DEC_BREAK`, and the two cases in which no row is open. -/
theorem witness_decEnd :
    (withDec opened).dec.state = .active ∧ (withDec opened).dec.col = 0#16 ∧ (withDec opened).dec.row = 0#16 ∧
    (large { opened with row := 65535#16 }).dec.state = .active ∧ (large { opened with row := 65535#16 }).dec.col = 0#16 ∧
    (large { opened with row := 65535#16 }).dec.row ≠ 0#16 := by decide

/-- GridRdAnswersCellPadOrFault: no result, the two columns and rows just outside, the last stored cell, and the pad. -/
theorem witness_gridRd :
    ¬(base.dec.state = .done ∧ base.dec.status = .ok) ∧ full.Inv ∧ full.dec.state = .done ∧ full.dec.status = .ok ∧
    full.dec.w ≤ 2#16 ∧ full.dec.h ≤ 2#16 ∧ 1#16 < full.dec.w ∧ 1#16 < full.dec.h ∧
    rowLenRead full.dec 0#16 = some 2#16 ∧ rowLenRead full.dec 1#16 = some 1#16 :=
  ⟨by decide, full_inv, by decide⟩

/-- DecodedPixelsAreOpaque: the last stored cell of a row, and the first pad of another. -/
theorem witness_decodedPixels :
    full.Inv ∧
    (∃ t, exec (.gridRd 1#16 0#16) full = .next t ∧ ⟨.pix, 0xFF306048#32⟩ ∈ newResponses full t) ∧
    rowLenRead full.dec 0#16 = some 2#16 ∧ 1#16 < 2#16 ∧
    (∃ t, exec (.gridRd 1#16 1#16) full = .next t ∧ ⟨.pix, 0#32⟩ ∈ newResponses full t) ∧
    rowLenRead full.dec 1#16 = some 1#16 ∧ 1#16 ≤ 1#16 :=
  ⟨full_inv, ⟨_, rfl, by decide⟩, by decide, by decide, ⟨_, rfl, by decide⟩, by decide, by decide⟩

/-- FaultsHaveTheirCauses and FaultingCommandsDoNothingElse: each fault, taken. -/
theorem witness_faults :
    (∃ t, step (onPort 0x0200000000#40 base) = .next t ∧ ⟨.fault, 1#32⟩ ∈ newResponses base t) ∧
    (∃ t, step (onPort 0x3300000000#40 base) = .next t ∧ ⟨.fault, 2#32⟩ ∈ newResponses base t) ∧
    ∃ t, step (onPort 0x3400000002#40 full) = .next t ∧ ⟨.fault, 4#32⟩ ∈ newResponses full t :=
  ⟨⟨_, rfl, by decide⟩, ⟨_, rfl, by decide⟩, _, rfl, by decide⟩

theorem witness_faultCause :
    faultCause 0 0x0100000009#40 base ∧ faultCause 1 0x3300000000#40 base ∧ faultCause 2 0x3400000002#40 full :=
  ⟨.inr ⟨0x09#8, by decide, by decide⟩, ⟨.decEnd, by decide, .inl rfl⟩,
    .gridRd 2#16 0#16, by decide, fun h => h (by decide), 2#16, 0#16, rfl, .inl (by decide)⟩

/-- RejectedBlocksKeepTheirFirstError: a character, and `DEC_END`. -/
theorem witness_rejected :
    (withDec rejected).dec.state = .reject ∧
    (∃ t, step (onPort 0x3100002847#40 (withDec rejected)) = .next t ∧ t.dec.state = .reject) ∧
    ∃ t, step (onPort 0x3300000000#40 (withDec rejected)) = .next t ∧ t.dec.state = .done :=
  ⟨rfl, ⟨_, rfl, rfl⟩, _, rfl, rfl⟩

/-- StateMachinesFollowTheirTable: the last pixel, and the first glyph of a block. -/
theorem witness_stateMachines :
    EncContext.Inv lastPixel.enc ∧ (∃ t, exec (.encPix 0#8 0#8 0#8 0#8) lastPixel = .next t) ∧
    EncContext.Inv (withDec opened).enc ∧ ∃ t, exec (.decChar 0x2800#32) (withDec opened) = .next t :=
  ⟨lastPixel_inv, ⟨_, rfl⟩, encContext_reset_inv, _, rfl⟩

/-- StoresAreWrittenOneEntryAtATime: a cell that a command writes, and an entry of `ROWLEN`. -/
theorem witness_stores :
    (∃ t, exec (.decChar 0x2828#32) (withDec halfPixel) = .next t ∧
      memRead t.dec 0#16 0#16 ≠ memRead (withDec halfPixel).dec 0#16 0#16) ∧
    ∃ t, exec .decBreak (withDec onePixel) = .next t ∧
      rowLenRead t.dec 0#16 ≠ rowLenRead (withDec onePixel).dec 0#16 :=
  ⟨⟨_, rfl, by decide⟩, _, rfl, by decide⟩

/-- ResetClearsEveryRegister and ResetLeavesTheStoresUnspecified: the machine at the start, and a reset in the middle of a block. -/
theorem witness_reset :
    (State.reset = State.reset ∨ ∃ s0, State.reset = hostReset s0) ∧
    (hostReset (withDec onePixel) = State.reset ∨ ∃ s0, hostReset (withDec onePixel) = hostReset s0) :=
  ⟨.inl rfl, .inr ⟨_, rfl⟩⟩

/-- CommandsActOnTheirOwnContext: a command of each context, and two states that share it and differ in the other. -/
theorem witness_contexts :
    (Instr.nop).context = .none ∧ (Instr.encStart 1#16 1#16).context = .encoder ∧ (Instr.decBreak).context = .decoder ∧
    (withDec opened).enc = (withDec ragged).enc ∧ withDec opened ≠ withDec ragged ∧
    base.dec = lastPixel.dec ∧ base.maxW = lastPixel.maxW ∧ base.maxH = lastPixel.maxH ∧ base ≠ lastPixel ∧
    ∃ t, exec .decBreak (withDec opened) = .next t :=
  ⟨rfl, rfl, rfl, rfl, by decide, rfl, rfl, rfl, by decide, _, rfl⟩

/-- DecPredIsTheGlyphTextPredicate and BlocksDoNotSeeEarlierBlocks: a first block, and one after another. -/
theorem witness_decodeReady :
    base.DecodeReady ∧ (withDec ragged).DecodeReady ∧ base.maxW = (withDec ragged).maxW ∧
    base.maxH = (withDec ragged).maxH ∧ base ≠ withDec ragged :=
  ⟨.inl rfl, .inr rfl, rfl, rfl, by decide⟩

/-- The reads of BlocksDoNotSeeEarlierBlocks. -/
theorem witness_laterReads :
    (∃ u, exec (.gridRd 0#16 0#16) full = .next u) ∧ ∃ u, exec (.gridRd 0#16 0#16) (withDec ragged) = .next u :=
  ⟨⟨_, rfl⟩, _, rfl⟩

/-- RowsDecodeAsDecodeRow: a row that fills the width of a store, and an empty one. -/
theorem witness_rows :
    full.maxW = 2#16 ∧ ({ full with dec := opened }).dec.state = .active ∧
    ({ full with dec := opened }).dec.pending = false ∧ ({ full with dec := opened }).dec.col = 0#16 ∧
    ({ full with dec := { opened with row := 1#16 } }).dec.row < full.maxH ∧
    [0x2800#32, 0x28FF#32, 0x2800#32, 0x28FF#32].length / 2 ≤ full.maxW.toNat ∧
    ([] : List U32).length / 2 ≤ full.maxW.toNat := by decide

/-- BlocksDecodeAsDecode: a block that fills a store of 1 × 2 cells, and the block of no symbols. -/
theorem witness_blocks :
    base.DecodeReady ∧
    (∀ l ∈ symbolLines [.char 0x2800#32, .char 0x2801#32, .brk, .brk, .char 0x2800#32, .char 0x2801#32],
      l.length / 2 ≤ 1) ∧
    ((symbolLines [.char 0x2800#32, .char 0x2801#32, .brk, .brk, .char 0x2800#32, .char 0x2801#32]).filter
      fun l => !l.isEmpty).length ≤ 2 ∧
    (∀ l ∈ symbolLines [], l.length / 2 ≤ 1) ∧ 2 ≤ base.maxW.toNat :=
  ⟨.inl rfl, by decide, by decide, by decide, by decide⟩

/-- DecodeOfEncodeKeepsBitsSixToThree: a grid that fills a store, at both ends of a channel. -/
theorem witness_decodeOfEncode :
    base.Complete ∧ 4 ≤ base.maxW.toNat ∧ 4 ≤ base.maxH.toNat ∧
    (∀ row ∈ List.replicate 4 (List.replicate 4 (⟨0#8, 255#8, 128#8, 127#8⟩ : Pixel)), row.length = 4) :=
  ⟨⟨rfl, .inl rfl⟩, by decide⟩

/-- TokenizeFollowsItsEquations: a code point that begins a marker but does not complete one. -/
theorem witness_tokenize :
    0x5B#32 ≠ 0x0A#32 ∧ ¬∃ t', 0x5B#32 :: [0x62#32, 0x72#32] = 0x5B#32 :: 0x62#32 :: 0x72#32 :: 0x5D#32 :: t' :=
  ⟨by decide, fun ⟨_, h⟩ => by simp at h⟩

end Sys2Proof.Tests
end

namespace Sys2Proof.Machine

open Sys2Proof.Spec

/-! ## The register `FAULT` (R23, R137) -/

/-- The number of the bit of `FAULT` that an interface fault sets (R23). -/
def IfaceFault.bit : IfaceFault → Nat
  | .illegalCommand => 0
  | .protocolError => 1
  | .addressError => 2

theorem IfaceFault.bit_lt_three (f : IfaceFault) : f.bit < 3 := by cases f <;> decide

/-- `raise` is the state change that the obligations write as `raised` (R137). -/
theorem raise_eq_raised (f : IfaceFault) (s : State) : raise f s = raised f.bit s := by cases f <;> rfl

/-- A step takes one interface fault, with its bit and its response, or leaves `FAULT` alone (R23, R137). -/
theorem step_fault_cases {s t : State} (h : step s = .next t) :
    t.fault = s.fault ∨
    ∃ f : IfaceFault, t.fault = (raise f s).fault ∧ t.responses = (raise f s).responses := by
  obtain ⟨-, rfl⟩ | ⟨c, rest, -, ⟨i, -, hexec⟩ | ⟨-, rfl⟩⟩ := step_cases h
  · exact .inl rfl
  · obtain ⟨f, hraise⟩ | ⟨e, d, l, hanswer, -⟩ := exec_cases i { s with commands := rest }
    · cases hraise.symm.trans hexec
      exact .inr ⟨f, rfl, rfl⟩
    · cases hanswer.symm.trans hexec
      exact .inl rfl
  · exact .inr ⟨.illegalCommand, rfl, rfl⟩

/-- ORing bits into a word clears none. -/
theorem and_or_self {n : Nat} (x y : BitVec n) : x &&& (x ||| y) = x := by
  ext i hi
  rw [BitVec.getElem_and, BitVec.getElem_or]
  exact inf_sup_self (a := x[i])

/-- Settles O32: a step keeps `FAULT` or takes one fault, which ORs one bit into it. -/
theorem faultBitsAreSticky : Obligations.FaultBitsAreSticky := by
  refine ⟨fun s t h => ?_, hostReset_fault⟩
  obtain hkeep | ⟨f, hfault, hresp⟩ := step_fault_cases h
  · exact ⟨by rw [hkeep, BitVec.and_self], .inl hkeep⟩
  · rw [raise_eq_raised] at hfault hresp
    exact ⟨by rw [hfault]; exact and_or_self _ _, .inr ⟨f.bit, f.bit_lt_three, hfault, hresp⟩⟩

/-! ## The state after reset (R26) -/

/-- Settles O36: at the start and after a reset the contexts are those of `EncContext.reset` and `DecContext.reset`, whose
fields are R26's values. -/
theorem resetClearsEveryRegister : Obligations.ResetClearsEveryRegister := by
  rintro s (rfl | ⟨s0, rfl⟩)
  · exact ⟨rfl, rfl, rfl, rfl⟩
  · exact ⟨hostReset_fault s0, hostReset_enc s0, hostReset_responses s0, congrArg decRegisters (hostReset_dec s0)⟩

end Sys2Proof.Machine

namespace Sys2Proof.Machine

open Sys2Proof.Spec

/-! ## Words that name something reserved (R45, R46) -/

/-- A word that decodes to nothing raises `IllegalCommand` in every state (R45, R46, R137). -/
theorem illegal_of_decode_error {c : U40} {e : DecodeReject} (h : decode c = .error e) : illegal c := fun s =>
  calc step (onPort c s)
    _ = .next (raise .illegalCommand s) := by rw [step_of_command (s := onPort c s) rfl, h]; rfl
    _ = .next (raised 0 s) := congrArg _ (raise_eq_raised .illegalCommand s)

/-- A reserved opcode is none of the sixteen that the decoder compares it with (R45). -/
theorem decode_of_reservedOp {o : Byte} (h : reservedOp o.toNat) (arg : U32) :
    decode (o ++ arg) = .error .reservedOp := by
  have hne : ∀ c : Byte, ¬reservedOp c.toNat → o ≠ c := fun c hc hoc => hc (hoc ▸ h)
  rw [decode_append]
  iterate 16 rw [if_neg (hne _ (by unfold reservedOp; decide))]

/-- A word whose operand does not fit its format has a reserved bit set, which every format of `operandBits` refuses
(R41, R46). -/
theorem decode_of_reserved_arg {p : Byte × Nat} (hp : p ∈ operandBits) {arg : U32} (h : 2 ^ p.2 ≤ arg.toNat) :
    decode (p.1 ++ arg) = .error .reservedArgBits := by
  have hlt : ¬arg.toNat < 2 ^ p.2 := Nat.not_lt.2 h
  simp only [operandBits, List.mem_cons, List.not_mem_nil, or_false] at hp
  rw [decode_append]
  obtain rfl | rfl | rfl | rfl | rfl | rfl | rfl | rfl | rfl | rfl := hp
  · exact (formatZ_eq arg _).trans (if_neg hlt)
  · exact (formatB1_eq arg _).trans (if_neg hlt)
  · exact (formatN1_eq arg _).trans (if_neg hlt)
  · exact (formatN1_eq arg _).trans (if_neg hlt)
  · exact (formatB1_eq arg _).trans (if_neg hlt)
  · exact (formatN1_eq arg _).trans (if_neg hlt)
  · exact (formatN2_eq arg _).trans (if_neg hlt)
  · exact (formatZ_eq arg _).trans (if_neg hlt)
  · exact (formatZ_eq arg _).trans (if_neg hlt)
  · exact (formatZ_eq arg _).trans (if_neg hlt)

/-- The word of `STAT_RD` selects it whatever its selector: a reserved one is found when it is executed (R46, R121). -/
theorem decode_statRd_word (sel : Byte) : decode (0x01#8 ++ (0#24 ++ sel)) = .ok (.statRd sel) :=
  (decode_append _ _).trans (formatB1_word sel _)

/-- `STAT_RD` with a reserved selector takes the fault (R121). -/
theorem exec_statRd_of_reserved {sel : Byte} (h : 0x08 < sel.toNat) (s : State) :
    exec (.statRd sel) s = .next (raised 0 s) := by
  have hsel : selectorOk sel = false := decide_eq_false (BitVec.not_le.2 h)
  calc exec (.statRd sel) s
    _ = .next (raise .illegalCommand s) := by simp [exec, execStatRd, hsel]
    _ = .next (raised 0 s) := congrArg _ (raise_eq_raised .illegalCommand s)

/-- Settles O7: a reserved opcode or `arg` bit leaves the word without a command, a reserved selector is refused by
`STAT_RD`; both take the one fault `IllegalCommand`. -/
theorem reservedWordsRaiseIllegalCommand : Obligations.ReservedWordsRaiseIllegalCommand := by
  refine ⟨fun op arg h => ?_, fun p hp arg h => ?_, fun sel h s => ?_⟩
  · exact illegal_of_decode_error (decode_of_reservedOp h arg)
  · exact illegal_of_decode_error (decode_of_reserved_arg hp h)
  · rw [step_of_command (s := onPort _ s) rfl, decode_statRd_word]
    exact exec_statRd_of_reserved h s

end Sys2Proof.Machine

namespace Sys2Proof.Machine

open Sys2Proof.Spec

/-! ## Leaf commands: the word, and the answer as a number (R41, R43) -/

/-- A word runs the command that it decodes to (R4). -/
theorem runs_of_decode {c : U40} {i : Instr} (h : decode c = .ok i) : runs c i := fun s =>
  (step_pushCommand c s).trans (by rw [h])

/-- An operand beyond its format's low bits makes the word illegal (R46). -/
theorem illegal_of_reserved_arg {p : Byte × Nat} (hp : p ∈ operandBits) {arg : U32} (h : 2 ^ p.2 ≤ arg.toNat) :
    illegal (p.1 ++ arg) :=
  illegal_of_decode_error (decode_of_reserved_arg hp h)

/-- Emitting a word, brought to the 32 bits of a response, answers its number (R43). -/
theorem emit_eq_answered (k : ResponseKind) {w n : Nat} {x : BitVec w} (h : x.toNat = n) (s : State) :
    emit k (x.setWidth 32) s = answered k n s := by
  rw [← BitVec.ofNat_toNat, h]; rfl

/-! ## The quantizer's functions on numbers (R60, R61, R64, R65) -/

/-- The table `PFWD` lists P, entry by entry (R60). -/
theorem pfwd_toNat : ∀ n : Nibble, (pfwd n).toNat = forthN n.toNat := by decide

/-- The table `PBACK` lists P⁻¹, entry by entry (R61). -/
theorem pback_toNat : ∀ n : Nibble, (pback n).toNat = backN n.toNat := by decide

/-- The field `v[6:3]` is the source's `(value >> 3) & 0xF`, so the table lookup is `quantize` (R64). -/
theorem quantize_toNat (v : Byte) : (quantize v).toNat = quantizeN v.toNat := by
  have hfield : (v.extractLsb' 3 4).toNat = (v.toNat >>> 3) &&& 0xF := by
    rw [BitVec.extractLsb'_toNat]; exact (Nat.and_two_pow_sub_one_eq_mod _ 4).symm
  calc (quantize v).toNat
    _ = forthN (v.extractLsb' 3 4).toNat := pfwd_toNat _
    _ = quantizeN v.toNat := congrArg forthN hfield

/-- Three zero bits below a nibble shift it left by three, and the byte holds all of it (R65). -/
theorem dequantize_toNat (n : Nibble) : (dequantize n).toNat = dequantizeN n.toNat := by
  calc (dequantize n).toNat
    _ = (0#1 ++ pback n).toNat * 2 ^ 3 + (0#3).toNat := toNat_append (0#1 ++ pback n) (0#3)
    _ = (pback n).toNat * 2 ^ 3 := by rw [toNat_append]; simp
    _ = dequantizeN n.toNat := by rw [pback_toNat, dequantizeN, Nat.shiftLeft_eq]

/-! ## The quantizer's commands (R62 to R65) -/

theorem exec_pfwd (n : Nibble) (s : State) : exec (.pfwd n) s = .next (emit .val ((pfwd n).setWidth 32) s) := rfl

theorem exec_pback (n : Nibble) (s : State) : exec (.pback n) s = .next (emit .val ((pback n).setWidth 32) s) := rfl

theorem exec_quant (v : Byte) (s : State) : exec (.quant v) s = .next (emit .val ((quantize v).setWidth 32) s) := rfl

theorem exec_dequant (n : Nibble) (s : State) :
    exec (.dequant n) s = .next (emit .val ((dequantize n).setWidth 32) s) := rfl

/-- Settles O12: the table is P, and the word has format `N1`. -/
theorem pfwdAnswersThePermutation : Obligations.PfwdAnswersThePermutation := by
  refine ⟨fun n s => ?_, fun n => ?_, fun arg h => ?_⟩
  · rw [exec_pfwd, emit_eq_answered .val (pfwd_toNat n)]
  · exact runs_of_decode ((decode_append _ _).trans (formatN1_word n _))
  · exact illegal_of_reserved_arg (p := (0x10#8, 4)) (by decide) h

/-- Settles O13: the table is the inverse of P, and the word has format `N1`. -/
theorem pbackAnswersTheInverse : Obligations.PbackAnswersTheInverse := by
  refine ⟨fun n s => ?_, fun n => ?_, fun arg h => ?_⟩
  · rw [exec_pback, emit_eq_answered .val (pback_toNat n)]
  · exact runs_of_decode ((decode_append _ _).trans (formatN1_word n _))
  · exact illegal_of_reserved_arg (p := (0x11#8, 4)) (by decide) h

/-- Settles O14: the field looked up is the one that the source extracts, and the word has format `B1`. -/
theorem quantAnswersTheQuantizedNibble : Obligations.QuantAnswersTheQuantizedNibble := by
  refine ⟨fun v s => ?_, fun v => ?_, fun arg h => ?_⟩
  · rw [exec_quant, emit_eq_answered .val (quantize_toNat v)]
  · exact runs_of_decode ((decode_append _ _).trans (formatB1_word v _))
  · exact illegal_of_reserved_arg (p := (0x12#8, 8)) (by decide) h

/-- Settles O15: the nibble looked up is shifted without loss, and the word has format `N1`. -/
theorem dequantAnswersTheChannel : Obligations.DequantAnswersTheChannel := by
  refine ⟨fun n s => ?_, fun n => ?_, fun arg h => ?_⟩
  · rw [exec_dequant, emit_eq_answered .val (dequantize_toNat n)]
  · exact runs_of_decode ((decode_append _ _).trans (formatN1_word n _))
  · exact illegal_of_reserved_arg (p := (0x13#8, 4)) (by decide) h

end Sys2Proof.Machine

namespace Sys2Proof.Machine

open Sys2Proof.Spec

/-! ## The subcarrier byte (R70, R71) -/

/-- The source's mask of bit 7 is that bit, as the model extracts it, at its place. -/
theorem and_128_eq_bit7 (v : Byte) : v.toNat &&& 128 = (v.extractLsb' 7 1).toNat * 2 ^ 7 := by
  calc v.toNat &&& 128
    _ = (v.toNat.testBit 7).toNat * 2 ^ 7 := Nat.and_two_pow v.toNat 7
    _ = (v.extractLsb' 7 1).toNat * 2 ^ 7 := by
      rw [Nat.toNat_testBit, BitVec.extractLsb'_toNat, Nat.shiftRight_eq_div_pow, Nat.pow_one]

/-- The source's four shifts bring bit 7 of `r`, `g`, `b` and `a` to bits 6, 5, 4 and 3: one equation per value of the
four bits (R70). -/
theorem subcarrier_bits_toNat : ∀ r g b a : BitVec 1,
    (0#1 ++ r ++ g ++ b ++ a ++ 0#3).toNat =
      (a.toNat * 2 ^ 7) >>> 4 ||| (r.toNat * 2 ^ 7) >>> 1 ||| (g.toNat * 2 ^ 7) >>> 2 ||| (b.toNat * 2 ^ 7) >>> 3 := by
  decide

/-- `subcarrier` is the source's `mix` (R70). -/
theorem subcarrier_toNat (r g b a : Byte) :
    (subcarrier r g b a).toNat = mixN r.toNat g.toNat b.toNat a.toNat := by
  simp only [mixN, and_128_eq_bit7]
  exact subcarrier_bits_toNat _ _ _ _

theorem exec_mix (r g b a : Byte) (s : State) :
    exec (.mix r g b a) s = .next (emit .val ((subcarrier r g b a).setWidth 32) s) := rfl

/-- Settles O16: the byte assembled from the four top bits is the source's formula, and the word has format `P4`, which
refuses no `arg`. -/
theorem mixAnswersTheSubcarrierByte : Obligations.MixAnswersTheSubcarrierByte := by
  refine ⟨fun r g b a s => ?_, fun r g b a => ?_⟩
  · rw [exec_mix, emit_eq_answered .val (subcarrier_toNat r g b a)]
  · exact runs_of_decode ((decode_append _ _).trans (formatP4_word r g b a _))

end Sys2Proof.Machine

namespace Sys2Proof.Machine

open Sys2Proof.Spec

/-! ## Masks of a field (R75, R78) -/

/-- The source's mask of the `n` bits from bit `i` up is that field, as the model extracts it, at its place. -/
theorem and_fieldMask_eq_field {w : Nat} (v : BitVec w) (i n : Nat) :
    v.toNat &&& ((2 ^ n - 1) <<< i) = (v.extractLsb' i n).toNat <<< i := by
  rw [BitVec.extractLsb'_toNat, ← Nat.and_two_pow_sub_one_eq_mod]
  refine Nat.eq_of_testBit_eq fun j => ?_
  by_cases hij : i ≤ j
  · simp [Nat.testBit_shiftLeft, Nat.testBit_shiftRight, hij, Bool.and_comm]
  · simp [Nat.testBit_shiftLeft, hij]

/-! ## The packed glyph (R75, R77) -/

/-- The four fields of the glyph, each at its place, sum to the source's `pack` (R75). -/
theorem packGlyph_toNat (n1 n2 : Nibble) : (packGlyph n1 n2).toNat = packN n1.toNat n2.toNat := by
  have hhigh (n : Nibble) : n.toNat &&& 8 = (n.extractLsb' 3 1).toNat <<< 3 := and_fieldMask_eq_field n 3 1
  have hlow (n : Nibble) : n.toNat &&& 7 = (n.extractLsb' 0 3).toNat := and_fieldMask_eq_field n 0 3
  simp only [packGlyph, packN, hhigh, hlow, toNat_append, Nat.shiftLeft_eq, BitVec.toNat_ofNat]
  omega

theorem exec_pack (n1 n2 : Nibble) (s : State) :
    exec (.pack n1 n2) s = .next (emit .val ((packGlyph n1 n2).setWidth 32) s) := rfl

/-- Settles O17: the interleaved fields are the source's sum, and the word has format `N2`. -/
theorem packAnswersTheGlyph : Obligations.PackAnswersTheGlyph := by
  refine ⟨fun n1 n2 s => ?_, fun n1 n2 => ?_, fun arg h => ?_⟩
  · rw [exec_pack, emit_eq_answered .val (packGlyph_toNat n1 n2)]
  · exact runs_of_decode ((decode_append _ _).trans (formatN2_word n1 n2 _))
  · exact illegal_of_reserved_arg (p := (0x15#8, 8)) (by decide) h

/-! ## The nibbles of a glyph (R78, R79) -/

/-- The first nibble of the glyph at offset `o` is the source's: offset bit 6 above bits 2 to 0 (R78). -/
theorem unpackN1_offset (o : Byte) :
    (o.extractLsb' 6 1 ++ o.extractLsb' 0 3).toNat = unpackN1 (0x2800 + o.toNat) := by
  have hlow : o.toNat &&& 7 = (o.extractLsb' 0 3).toNat := and_fieldMask_eq_field o 0 3
  have hbit : o.toNat &&& 64 = (o.extractLsb' 6 1).toNat <<< 6 := and_fieldMask_eq_field o 6 1
  rw [unpackN1, Nat.add_sub_cancel_left, hlow, hbit, ← Nat.shiftLeft_sub _ (by decide), Nat.or_comm]
  exact BitVec.toNat_append _ _

/-- The second nibble of the glyph at offset `o` is the source's: offset bit 7 above bits 5 to 3 (R78). -/
theorem unpackN2_offset (o : Byte) :
    (o.extractLsb' 7 1 ++ o.extractLsb' 3 3).toNat = unpackN2 (0x2800 + o.toNat) := by
  have hlow : o.toNat &&& 56 = (o.extractLsb' 3 3).toNat <<< 3 := and_fieldMask_eq_field o 3 3
  have hbit : o.toNat &&& 128 = (o.extractLsb' 7 1).toNat <<< 7 := and_fieldMask_eq_field o 7 1
  rw [unpackN2, Nat.add_sub_cancel_left, hlow, hbit, Nat.shiftLeft_shiftRight, ← Nat.shiftLeft_sub _ (by decide),
    Nat.or_comm]
  exact BitVec.toNat_append _ _

/-- A glyph unpacks to the source's two nibbles (R78). -/
theorem unpackGlyph_of_isGlyph {cp : U32} (h : isGlyph cp) :
    ∃ n1 n2, unpackGlyph cp = some (n1, n2) ∧ n1.toNat = unpackN1 cp.toNat ∧ n2.toNat = unpackN2 cp.toNat := by
  have hin : inGlyph cp = true := (inGlyph_iff cp).2 h
  obtain ⟨o, rfl⟩ := exists_offset hin
  have hcp : (0x28#24 ++ o : U32).toNat = 0x2800 + o.toNat := toNat_append (0x28#24) o
  have hfield (i n : Nat) (hi : i + n ≤ 8) : (0x28#24 ++ o : U32).extractLsb' i n = o.extractLsb' i n :=
    extract_low (0x28#24) o i n hi
  refine ⟨_, _, if_pos hin, ?_, ?_⟩
  · rw [hcp, hfield 6 1 (by decide), hfield 0 3 (by decide), unpackN1_offset]
  · rw [hcp, hfield 7 1 (by decide), hfield 3 3 (by decide), unpackN2_offset]

/-- What is no glyph does not unpack (R78). -/
theorem unpackGlyph_of_not_isGlyph {cp : U32} (h : ¬isGlyph cp) : unpackGlyph cp = none :=
  unpackGlyph_of_not_inGlyph (Bool.eq_false_iff.2 fun hin => h ((inGlyph_iff cp).1 hin))

theorem exec_unpack_of_some {cp : U32} {n1 n2 : Nibble} (h : unpackGlyph cp = some (n1, n2)) (s : State) :
    exec (.unpack cp) s = .next (emit .val ((n2 ++ n1).setWidth 32) s) := by
  simp only [exec, execUnpack, h]

theorem exec_unpack_of_none {cp : U32} (h : unpackGlyph cp = none) (s : State) :
    exec (.unpack cp) s = .next (emit .err (DecStatus.invalidGlyph.code.setWidth 32) s) := by
  simp only [exec, execUnpack, h]

/-- Settles O18: a glyph answers its nibbles, the second above the first, anything else the code of `InvalidGlyph`; the
word has format `W`, which refuses no `arg`. -/
theorem unpackAnswersNibblesOrInvalidGlyph : Obligations.UnpackAnswersNibblesOrInvalidGlyph := by
  refine ⟨fun cp s h => ?_, fun cp s h => ?_, fun cp => ?_⟩
  · obtain ⟨n1, n2, hunpack, hn1, hn2⟩ := unpackGlyph_of_isGlyph h
    have hval : (n2 ++ n1).toNat = unpackN1 cp.toNat + 16 * unpackN2 cp.toNat := by
      rw [toNat_append, hn1, hn2]; omega
    rw [exec_unpack_of_some hunpack, emit_eq_answered .val hval]
  · rw [exec_unpack_of_none (unpackGlyph_of_not_isGlyph h), emit_eq_answered .err (n := 1) (by decide)]
  · exact runs_of_decode (decode_append _ _)

end Sys2Proof.Machine

namespace Sys2Proof.Machine

open Sys2Proof.Spec

/-! ## The scan, one pixel further (R13, R103) -/

section Scan

variable {e : EncContext} (hactive : e.state = .active) (hinv : EncContext.Inv e)
include hactive hinv

/-- What one advance of the scan can do from `ACTIVE` under R13's invariant: the next pixel of the row, or the start of
the next row, in `IDLE` exactly when there is no such row; neither coordinate wraps. -/
theorem EncContext.scanned_cases :
    (e.x.toNat + 1 < e.w.toNat ∧ e.y.toNat < e.h.toNat ∧
      e.scanned.state ≠ .idle ∧ e.scanned.x.toNat = e.x.toNat + 1 ∧ e.scanned.y.toNat = e.y.toNat) ∨
    (e.x.toNat + 1 = e.w.toNat ∧ e.y.toNat < e.h.toNat ∧
      (e.scanned.state = .idle ↔ e.y.toNat + 1 = e.h.toNat) ∧
      e.scanned.x.toNat = 0 ∧ e.scanned.y.toNat = e.y.toNat + 1) := by
  obtain ⟨-, -, hx, hy⟩ := hinv.active hactive
  by_cases hrow : e.x.toNat + 1 < e.w.toNat
  · have hscan : e.scanned = { e with x := e.x + 1#16 } := if_pos hrow
    rw [hscan]
    exact .inl ⟨hrow, hy, by simp [hactive], toNat_add_one (BitVec.lt_def.2 hx), rfl⟩
  · have hscan : e.scanned =
        { e with x := 0#16, y := e.y + 1#16, state := if e.y + 1#16 = e.h then .idle else e.state } := if_neg hrow
    have hy1 : (e.y + 1#16).toNat = e.y.toNat + 1 := toNat_add_one (BitVec.lt_def.2 hy)
    rw [hscan]
    exact .inr ⟨by omega, hy, by simp [hactive, ← BitVec.toNat_inj, hy1], rfl, hy1⟩

theorem EncContext.scanned_x_lt : e.scanned.x.toNat < e.w.toNat := by
  obtain ⟨hrow, -, -, hx, -⟩ | ⟨hrow, -, -, hx, -⟩ := scanned_cases hactive hinv <;> omega

/-- The number of pixels accepted grows by one (R13). -/
theorem EncContext.scanned_position :
    e.scanned.y.toNat * e.w.toNat + e.scanned.x.toNat = e.y.toNat * e.w.toNat + e.x.toNat + 1 := by
  obtain ⟨-, -, -, hx, hy⟩ | ⟨hrow, -, -, hx, hy⟩ := scanned_cases hactive hinv
  · rw [hx, hy, Nat.add_assoc]
  · rw [hx, hy, Nat.succ_mul, ← hrow, Nat.add_zero, Nat.add_assoc]

/-- The scan ends when every pixel of the grid has been accepted (R103). -/
theorem EncContext.scanned_idle_iff :
    e.scanned.state = .idle ↔ e.scanned.y.toNat * e.w.toNat + e.scanned.x.toNat = e.w.toNat * e.h.toNat := by
  obtain ⟨hrow, hylt, hstate, hx, hy⟩ | ⟨hrow, -, hstate, hx, hy⟩ := scanned_cases hactive hinv
  · have hrows : (e.y.toNat + 1) * e.w.toNat ≤ e.h.toNat * e.w.toNat := Nat.mul_le_mul_right _ hylt
    rw [Nat.succ_mul, Nat.mul_comm e.h.toNat] at hrows
    exact iff_of_false hstate (by rw [hx, hy]; omega)
  · have hw : 0 < e.w.toNat := by omega
    rw [hstate, hx, hy, Nat.mul_comm e.w.toNat]
    exact (Nat.mul_left_inj hw.ne').symm

end Scan

/-! ## `ENC_PIX` (R86, R87) -/

theorem exec_encPix (r g b a : Byte) (s : State) : exec (.encPix r g b a) s = execEncPix r g b a s := rfl

/-- A value brought to the 32 bits of a response is its number there (R43). -/
theorem setWidth_eq_ofNat {w n : Nat} {x : BitVec w} (h : x.toNat = n) : x.setWidth 32 = BitVec.ofNat 32 n :=
  h ▸ (BitVec.ofNat_toNat 32 x).symm

/-- The first glyph of a pixel is the source's (R86). -/
theorem encodePixel_fst_toNat (r g b a : Byte) : (encodePixel r g b a).1.toNat = glyphA ⟨r, g, b, a⟩ := by
  rw [encodePixel, packGlyph_toNat, quantize_toNat, quantize_toNat, glyphA]

/-- The second glyph of a pixel is the source's (R86). -/
theorem encodePixel_snd_toNat (r g b a : Byte) : (encodePixel r g b a).2.toNat = glyphB ⟨r, g, b, a⟩ := by
  rw [encodePixel, packGlyph_toNat, quantize_toNat, quantize_toNat, subcarrier_toNat, glyphB]

/-- Settles O22: `ENC_PIX` emits the pixel's responses and moves to the scanned context, whose position is one pixel
further. -/
theorem encPixEmitsGlyphsAndAdvances : Obligations.EncPixEmitsGlyphsAndAdvances := by
  refine ⟨fun r g b a s hactive hinv => ⟨s.enc.scanned, ?_, s.enc.scanned_w, s.enc.scanned_h, ?_, ?_, ?_⟩,
    fun r g b a s hidle => ?_, fun r g b a => ?_⟩
  · rw [exec_encPix, execEncPix_active r g b a hactive, EncContext.pixelResponses,
      setWidth_eq_ofNat (encodePixel_fst_toNat r g b a), setWidth_eq_ofNat (encodePixel_snd_toNat r g b a)]
    simp only [List.append_assoc]
  · rw [EncContext.scanned_w]
    exact EncContext.scanned_x_lt hactive hinv
  · rw [EncContext.scanned_w]
    exact EncContext.scanned_position hactive hinv
  · rw [EncContext.scanned_w, EncContext.scanned_h]
    exact EncContext.scanned_idle_iff hactive hinv
  · exact (execEncPix_idle r g b a hidle).trans (congrArg _ (raise_eq_raised .protocolError s))
  · exact runs_of_decode ((decode_append _ _).trans (formatP4_word r g b a _))

end Sys2Proof.Machine

namespace Sys2Proof.Machine

open Sys2Proof.Spec

/-! ## `DEC_CHAR`, by the state of the decoder (R90, R93) -/

/-- Outside a block `DEC_CHAR` takes the fault (R90). -/
theorem exec_decChar_closed (cp : U32) {s : State} (h : s.dec.state = .idle ∨ s.dec.state = .done) :
    exec (.decChar cp) s = .next (raised 1 s) := by
  have hraise : exec (.decChar cp) s = .next (raise .protocolError s) := by
    obtain h | h := h <;> simp only [exec, execDecChar, h]
  exact hraise.trans (congrArg _ (raise_eq_raised .protocolError s))

theorem exec_decChar_reject (cp : U32) {s : State} (h : s.dec.state = .reject) :
    exec (.decChar cp) s = .next { s with dec := predChar cp s.dec } := by
  simp only [exec, execDecChar, h]

theorem exec_decChar_active (cp : U32) {s : State} (h : s.dec.state = .active) :
    exec (.decChar cp) s = .next { s with dec := parseChar s.maxW s.maxH cp (predChar cp s.dec) } := by
  simp only [exec, execDecChar, h]

/-- A glyph leaves `pr_bad` as it is (R93). -/
theorem predChar_of_isGlyph {cp : U32} (h : isGlyph cp) (d : DecContext) :
    predChar cp d = { d with prCur := true } := by
  have hin : inGlyph cp = true := (inGlyph_iff cp).2 h
  simp [predChar, hin]

/-- A character that is no glyph sets `pr_bad` (R93). -/
theorem predChar_of_not_isGlyph {cp : U32} (h : ¬isGlyph cp) (d : DecContext) :
    predChar cp d = { d with prCur := true, prBad := true } := by
  have hin : inGlyph cp = false := Bool.eq_false_iff.2 fun hin => h ((inGlyph_iff cp).1 hin)
  simp [predChar, hin]

/-- The cell word of a decoded pixel is the source's, channel by channel (R32, R65, R89). -/
theorem decodedCell_eq_pixN (nr ng nb : Nibble) :
    decodedCell nr ng nb =
      BitVec.ofNat 32 (pixN (dequantizeN nr.toNat) (dequantizeN ng.toNat) (dequantizeN nb.toNat) 255) := by
  have hcell : (decodedCell nr ng nb).toNat =
      pixN (dequantizeN nr.toNat) (dequantizeN ng.toNat) (dequantizeN nb.toNat) 255 := by
    rw [decodedCell_toNat, dequantize_toNat, dequantize_toNat, dequantize_toNat, pixN]
  rw [← hcell, BitVec.ofNat_toNat, BitVec.setWidth_eq]

/-- Settles O25: in `ACTIVE` the four cases of the parse, on the context that the predicate tracking leaves; in `REJECT`
the tracking alone; elsewhere the fault. -/
theorem decCharParsesOneCharacter : Obligations.DecCharParsesOneCharacter := by
  refine ⟨fun cp s h => exec_decChar_closed cp h, fun cp s hs hg => ?_, fun cp s hs hg => ?_, fun cp s hs hg => ?_,
    fun cp s hs hg hp => ?_, fun cp s hs hg hp hover => ?_, fun cp s hs hg hp hcol hrow => ?_, fun cp => ?_⟩
  · rw [exec_decChar_reject cp hs, predChar_of_isGlyph hg]
  · rw [exec_decChar_reject cp hs, predChar_of_not_isGlyph hg]
  · rw [exec_decChar_active cp hs, parseChar_invalid _ _ _ (unpackGlyph_of_not_isGlyph hg), predChar_of_not_isGlyph hg]
    rfl
  · obtain ⟨n1, n2, hunpack, hn1, hn2⟩ := unpackGlyph_of_isGlyph hg
    rw [exec_decChar_active cp hs, parseChar_first (d := predChar cp s.dec) _ _ hunpack hp, predChar_of_isGlyph hg,
      ← hn1, ← hn2, BitVec.ofNat_toNat, BitVec.ofNat_toNat, BitVec.setWidth_eq, BitVec.setWidth_eq]
  · obtain ⟨n1, n2, hunpack, -, -⟩ := unpackGlyph_of_isGlyph hg
    rw [exec_decChar_active cp hs, parseChar_overflow (d := predChar cp s.dec) hunpack hp hover,
      predChar_of_isGlyph hg]
    rfl
  · obtain ⟨n1, n2, hunpack, hn1, -⟩ := unpackGlyph_of_isGlyph hg
    refine ⟨(memWrite s.dec.row s.dec.col (decodedCell s.dec.holdR s.dec.holdG n1) s.dec).grid, s.dec.col + 1#16, ?_,
      toNat_add_one hcol, fun y x => ?_⟩
    · rw [exec_decChar_active cp hs, parseChar_second (d := predChar cp s.dec) hunpack hp hcol hrow,
        predChar_of_isGlyph hg]
      rfl
    · rw [← hn1, ← decodedCell_eq_pixN]
      exact memRead_memWrite s.dec s.dec.row s.dec.col y x _
  · exact runs_of_decode (decode_append _ _)

end Sys2Proof.Machine

namespace Sys2Proof.Machine

open Sys2Proof.Spec

/-! ## `DEC_BREAK`, by the state of the decoder (R91, R92) -/

/-- An `arg` other than 0 is illegal in a word without operands (R41, R46). -/
theorem illegal_of_arg_ne_zero {o : Byte} (ho : (o, 0) ∈ operandBits) {arg : U32} (h : arg ≠ 0#32) :
    illegal (o ++ arg) :=
  illegal_of_reserved_arg ho (Nat.one_le_iff_ne_zero.2 fun h0 => h (BitVec.eq_of_toNat_eq h0))

/-- Outside a block `DEC_BREAK` takes the fault (R91). -/
theorem exec_decBreak_closed {s : State} (h : s.dec.state = .idle ∨ s.dec.state = .done) :
    exec .decBreak s = .next (raised 1 s) := by
  have hraise : exec .decBreak s = .next (raise .protocolError s) := by
    obtain h | h := h <;> simp only [exec, execDecBreak, h]
  exact hraise.trans (congrArg _ (raise_eq_raised .protocolError s))

theorem exec_decBreak_reject {s : State} (h : s.dec.state = .reject) :
    exec .decBreak s = .next { s with dec := predBreak s.dec } := by
  simp only [exec, execDecBreak, h]

theorem exec_decBreak_active {s : State} (h : s.dec.state = .active) :
    exec .decBreak s = .next { s with dec := closeRow (predBreak s.dec) } := by
  simp only [exec, execDecBreak, h]

/-- Settles O26: in `ACTIVE` the three cases of `close_row`, on the context that the predicate tracking leaves; in
`REJECT` the tracking alone; elsewhere the fault. -/
theorem decBreakClosesTheRow : Obligations.DecBreakClosesTheRow := by
  refine ⟨fun s h => exec_decBreak_closed h, fun s hs => exec_decBreak_reject hs, fun s hs hp => ?_,
    fun s hs hp hc => ?_, fun s hs hp hc hrow => ?_, ?_, fun arg h => ?_⟩
  · rw [exec_decBreak_active hs, closeRow_odd (d := predBreak s.dec) hp]
    rfl
  · rw [exec_decBreak_active hs, closeRow_empty (d := predBreak s.dec) hp hc]
    rfl
  · refine ⟨(rowLenWrite s.dec.row s.dec.col s.dec).rowLen,
      if s.dec.wmax ≤ s.dec.col then s.dec.col else s.dec.wmax, s.dec.row + 1#16, ?_,
      wmax_toNat _ _, toNat_add_one hrow, fun y => ?_⟩
    · rw [exec_decBreak_active hs, closeRow_counted (d := predBreak s.dec) hp hc]
      rfl
    · exact rowLenRead_rowLenWrite s.dec s.dec.row s.dec.col y
  · exact runs_of_decode (by decide)
  · exact illegal_of_arg_ne_zero (by decide) h

end Sys2Proof.Machine

namespace Sys2Proof.Machine

open Sys2Proof.Spec

/-- A command that takes an interface fault ends in the state that the obligations write as `raised` (R137). -/
theorem eq_raised_of_eq_raise {r : Result} {f : IfaceFault} {s : State} (h : r = .next (raise f s)) :
    r = .next (raised f.bit s) :=
  h.trans (congrArg _ (raise_eq_raised f s))

/-! ## `ENC_START`, by the state of the encoder (R102) -/

theorem exec_encStart_active (w h : U16) {s : State} (hs : s.enc.state = .active) :
    exec (.encStart w h) s = .next (raised 1 s) :=
  eq_raised_of_eq_raise (f := .protocolError) (by simp only [exec, execEncStart, hs])

theorem exec_encStart_grid {w h : U16} {s : State} (hs : s.enc.state = .idle) (hw : w ≠ 0#16) (hh : h ≠ 0#16) :
    exec (.encStart w h) s = .next { s with enc := ⟨.active, w, h, 0#16, 0#16⟩ } := by
  simp only [exec, execEncStart, hs, hw, hh, or_self, if_false]

theorem exec_encStart_zero_area {w h : U16} {s : State} (hs : s.enc.state = .idle) (hz : w = 0#16 ∨ h = 0#16) :
    exec (.encStart w h) s = .next (emit .eot 0#32 { s with enc := ⟨.idle, w, h, 0#16, 0#16⟩ }) := by
  simp only [exec, execEncStart, hs, hz, if_true]

/-- Settles O21: the fault in `ACTIVE`; in `IDLE` the grid opened, or the answer to a grid of no area; and the word has
format `D2`, which refuses no `arg`. -/
theorem encStartOpensAGrid : Obligations.EncStartOpensAGrid := by
  refine ⟨fun w h s hs => exec_encStart_active w h hs, fun w h s hs hw hh => exec_encStart_grid hs hw hh,
    fun w h s hs hz => exec_encStart_zero_area hs hz, fun w h => ?_⟩
  exact runs_of_decode ((decode_append _ _).trans (formatD2_word w h _))

/-! ## `DEC_START`, by the state of the decoder (R105) -/

theorem exec_decStart_ready {s : State} (h : s.DecodeReady) :
    exec .decStart s = .next { s with dec := openBlock s.dec } := by
  obtain h | h := h <;> simp only [exec, execDecStart, h]

/-- In an open block `DEC_START` takes the fault (R105). -/
theorem exec_decStart_open {s : State} (h : s.dec.state = .active ∨ s.dec.state = .reject) :
    exec .decStart s = .next (raised 1 s) := by
  refine eq_raised_of_eq_raise (f := .protocolError) ?_
  obtain h | h := h <;> simp only [exec, execDecStart, h]

/-- Settles O24: `openBlock`'s registers are those listed, in an open block there is the fault, and the word has format
`Z`. -/
theorem decStartOpensABlock : Obligations.DecStartOpensABlock := by
  refine ⟨fun s h => exec_decStart_ready h, fun s h => exec_decStart_open h, ?_, fun arg h => ?_⟩
  · exact runs_of_decode (by decide)
  · exact illegal_of_arg_ne_zero (by decide) h

/-! ## `DEC_END`, by the state of the decoder (R107) -/

/-- Outside a block `DEC_END` takes the fault (R107). -/
theorem exec_decEnd_closed {s : State} (h : s.dec.state = .idle ∨ s.dec.state = .done) :
    exec .decEnd s = .next (raised 1 s) := by
  refine eq_raised_of_eq_raise (f := .protocolError) ?_
  obtain h | h := h <;> simp only [exec, execDecEnd, h]

theorem exec_decEnd_reject {s : State} (h : s.dec.state = .reject) :
    exec .decEnd s = .next (endBlock (predLine s.dec) s) := by
  simp only [exec, execDecEnd, h]

theorem exec_decEnd_active {s : State} (h : s.dec.state = .active) :
    exec .decEnd s = .next (endBlock (closeRow (predLine s.dec)) s) := by
  simp only [exec, execDecEnd, h]

/-- The data of `R_DEC_DONE` is the status code plus 16 times the predicate (R43). -/
theorem decDoneData_eq_ofNat (d : DecContext) :
    decDoneData d = BitVec.ofNat 32 (decStatusN d.status + 16 * d.pred.toNat) := by
  unfold decDoneData
  cases d.status <;> cases d.pred <;> rfl

/-- `endBlock` answers the status and the predicate that the finalisation leaves, whichever form that has been given. -/
theorem endBlock_eq_answered {d d' : DecContext} (h : finishBlock d = d') (s : State) :
    endBlock d s = answered .decDone (decStatusN d'.status + 16 * d'.pred.toNat) { s with dec := d' } := by
  rw [endBlock, h, decDoneData_eq_ofNat]; rfl

/-- Settles O27: in `ACTIVE` the three cases of `close_row` followed by those of the finalisation, on the context in which
the last line has ended; in `REJECT` the finalisation alone; elsewhere the fault. -/
theorem decEndFixesTheResult : Obligations.DecEndFixesTheResult := by
  refine ⟨fun s h => exec_decEnd_closed h, fun s hs => ⟨_, rfl, ?_⟩, fun s hs hp => ⟨_, rfl, ?_⟩,
    fun s hs hp hc hr => ⟨_, rfl, ?_⟩, fun s hs hp hc hr => ⟨_, rfl, ?_⟩, fun s hs hp hc hrow => ?_, ?_,
    fun arg h => ?_⟩
  · rw [exec_decEnd_reject hs, endBlock_eq_answered (finishBlock_reject (d := predLine s.dec) hs)]
    rfl
  · rw [exec_decEnd_active hs, closeRow_odd (d := predLine s.dec) hp, endBlock_eq_answered (finishBlock_reject rfl)]
    rfl
  · rw [exec_decEnd_active hs, closeRow_empty (d := predLine s.dec) hp hc,
      endBlock_eq_answered (finishBlock_empty (d := predLine s.dec) hs hr)]
    rfl
  · rw [exec_decEnd_active hs, closeRow_empty (d := predLine s.dec) hp hc,
      endBlock_eq_answered (finishBlock_image (d := predLine s.dec) hs hr)]
    rfl
  · have hrow1 : (s.dec.row + 1#16).toNat = s.dec.row.toNat + 1 := toNat_add_one hrow
    have hclose := closeRow_counted (d := predLine s.dec) hp hc
    have hstate : (closeRow (predLine s.dec)).state = .active := (congrArg DecContext.state hclose).trans hs
    have hr : (closeRow (predLine s.dec)).row ≠ 0#16 := fun h0 => by
      have hwrap : s.dec.row + 1#16 = 0#16 := (congrArg DecContext.row hclose).symm.trans h0
      simp [hwrap] at hrow1
    refine ⟨_, (rowLenWrite s.dec.row s.dec.col s.dec).rowLen,
      if s.dec.wmax ≤ s.dec.col then s.dec.col else s.dec.wmax, s.dec.row + 1#16, rfl, ?_, wmax_toNat _ _, hrow1,
      fun y => ?_⟩
    · rw [exec_decEnd_active hs, endBlock_eq_answered (finishBlock_image hstate hr), hclose]
      rfl
    · exact rowLenRead_rowLenWrite s.dec s.dec.row s.dec.col y
  · exact runs_of_decode (by decide)
  · exact illegal_of_arg_ne_zero (by decide) h

/-! ## `GRID_RD`, by the state of the decoder and the position (R108, R109) -/

theorem exec_gridRd_no_result (x y : U16) {s : State} (h : ¬(s.dec.state = .done ∧ s.dec.status = .ok)) :
    exec (.gridRd x y) s = .next (raised 1 s) :=
  eq_raised_of_eq_raise (f := .protocolError) (if_pos (Decidable.not_and_iff_or_not.1 h))

section Accepted

variable {s : State} {x y : U16} (hdone : s.dec.state = .done) (hok : s.dec.status = .ok)
include hdone hok

theorem exec_gridRd_outside (h : s.dec.w ≤ x ∨ s.dec.h ≤ y) : exec (.gridRd x y) s = .next (raised 2 s) :=
  eq_raised_of_eq_raise (f := .addressError) (by simp [exec, execGridRd, hdone, hok, h])

theorem exec_gridRd_inside (hx : x < s.dec.w) (hy : y < s.dec.h) :
    exec (.gridRd x y) s = .next (answered .pix (gridWord s.dec y x).toNat s) := by
  have hin : ¬(s.dec.w ≤ x ∨ s.dec.h ≤ y) := not_or.2 ⟨BitVec.not_le.2 hx, BitVec.not_le.2 hy⟩
  rw [← emit_eq_answered .pix (x := gridWord s.dec y x) rfl, BitVec.setWidth_eq]
  simp [exec, execGridRd, hdone, hok, hin]

end Accepted

/-- Inside the stored part of its row a cell reads as what was stored there (R36). -/
theorem gridWord_stored {d : DecContext} {y x n : U16} {v : U32} (hn : rowLenRead d y = some n) (hx : x < n)
    (hv : memRead d y x = some v) : gridWord d y x = v := by
  simp [gridWord, rowLenAt, cellAt, hn, hv, hx]

/-- Beyond the stored part of its row a cell reads as the pad (R108). -/
theorem gridWord_pad {d : DecContext} {y x n : U16} (hn : rowLenRead d y = some n) (hx : n ≤ x) :
    gridWord d y x = 0#32 := by
  have hlt : ¬x < n := BitVec.not_lt.2 hx
  simp [gridWord, rowLenAt, hn, hlt, Config.padPixel]

/-- An accepted result has, for each of its rows, a length within its width and a value in every cell of that length
(R21, R22). -/
theorem accepted_row {maxW maxH : U16} {d : DecContext} (hinv : DecContext.Inv maxW maxH d) (hdone : d.state = .done)
    (hok : d.status = .ok) {y : U16} (hy : y < d.h) :
    ∃ n, rowLenRead d y = some n ∧ 1 ≤ n.toNat ∧ n ≤ d.w ∧ ∀ x, x < n → ∃ v, memRead d y x = some v := by
  obtain ⟨hw, hh, -⟩ := hinv.doneOk hdone hok
  rw [hh] at hy
  obtain ⟨n, hn, hpos, hle⟩ := hinv.rows y hy
  exact ⟨n, hn, hpos, hw ▸ hle, hinv.cells y n hy hn⟩

/-- Settles O28: no result, then outside the grid, give the faults; the invariant says that what remains reads a row whose
length, and whose cells up to it, have been stored. -/
theorem gridRdAnswersCellPadOrFault : Obligations.GridRdAnswersCellPadOrFault := by
  refine ⟨fun x y s h => exec_gridRd_no_result x y h, fun x y s hdone hok h => exec_gridRd_outside hdone hok h,
    fun x y s hinv hdone hok hx hy => ?_, fun x y => ?_⟩
  · obtain ⟨n, hn, hpos, hle, hcells⟩ := accepted_row hinv.dec hdone hok hy
    have hexec := exec_gridRd_inside hdone hok hx hy
    refine ⟨n, hn, hpos, hle, fun hxn => ?_, fun hxn => ?_⟩
    · obtain ⟨v, hv⟩ := hcells x hxn
      exact ⟨v, hv, by rw [hexec, gridWord_stored hn hxn hv]⟩
    · rw [hexec, gridWord_pad hn hxn]; rfl
  · exact runs_of_decode ((decode_append _ _).trans (formatD2_word x y _))

end Sys2Proof.Machine

namespace Sys2Proof.Machine

open Sys2Proof.Spec

/-! ## `tokenize`, one code point or one tag at a time (R112) -/

/-- The branches of `tokenize` where no tag is being passed over. -/
theorem tokenize_cons (c : U32) (t : List U32) :
    tokenize (c :: t) =
      if Config.rowTag.isPrefixOf (c :: t) then .brk :: tokenizeFrom 3 t
      else if c = Config.newline then .brk :: tokenize t
      else .char c :: tokenize t := rfl

theorem tokenize_rowTag (t : List U32) : tokenize (Config.rowTag ++ t) = .brk :: tokenize t := by
  have htag : Config.rowTag.isPrefixOf (Config.rowTag ++ t) = true :=
    List.isPrefixOf_iff_prefix.2 ⟨t, rfl⟩
  exact (tokenize_cons _ _).trans (if_pos htag)

theorem tokenize_newline (t : List U32) : tokenize (Config.newline :: t) = .brk :: tokenize t := by
  have htag : ¬Config.rowTag.isPrefixOf (Config.newline :: t) = true := by simp [Config.rowTag, Config.newline]
  rw [tokenize_cons, if_neg htag, if_pos rfl]

theorem tokenize_char {c : U32} {t : List U32} (htag : ¬Config.rowTag <+: c :: t) (hc : c ≠ Config.newline) :
    tokenize (c :: t) = .char c :: tokenize t := by
  rw [tokenize_cons, if_neg fun h => htag (List.isPrefixOf_iff_prefix.1 h), if_neg hc]

/-- Settles O48: the branches of `tokenize` are tried in the order of the equations, and a text that is not the tag and some
`t'` is one that the tag does not begin. -/
theorem tokenizeFollowsItsEquations : Obligations.TokenizeFollowsItsEquations := by
  refine ⟨fun text => rfl, rfl, tokenize_rowTag, tokenize_newline, fun c t hc htag => ?_⟩
  exact tokenize_char (fun ⟨t', ht'⟩ => htag ⟨t', ht'.symm⟩) hc

end Sys2Proof.Machine

namespace Sys2Proof.Machine

open Sys2Proof.Spec

/-! ## The glyph-text predicate, symbol by symbol (R93, R113) -/

/-- The glyph-text predicate of the rest of a block, symbol by symbol, when its current line has a character (`cur`) or
none yet. -/
def glyphTextFrom : Bool → List InSymbol → Bool
  | cur, [] => cur
  | cur, .brk :: t => cur && glyphTextFrom false t
  | _, .char c :: t => inGlyph c && glyphTextFrom true t

/-- There is always a line in progress: one more line than there are `BREAK`s (R113). -/
theorem exists_symbolLines (syms : List InSymbol) : ∃ l ls, symbolLines syms = l :: ls := by
  cases syms with
  | nil => exact ⟨_, _, rfl⟩
  | cons x t =>
    cases x with
    | brk => exact ⟨_, _, rfl⟩
    | char c =>
      rw [symbolLines]
      cases symbolLines t with
      | nil => exact ⟨_, _, rfl⟩
      | cons l ls => exact ⟨_, _, rfl⟩

theorem symbolLines_char (c : U32) {t : List InSymbol} {l : List U32} {ls : List (List U32)}
    (h : symbolLines t = l :: ls) : symbolLines (.char c :: t) = (c :: l) :: ls := by
  simp only [symbolLines, h]

/-- On the lines of R113: the first may be empty when its line had a character before, every other has a character, and
all are of glyphs. -/
theorem glyphTextFrom_eq_lines (cur : Bool) {syms : List InSymbol} {l : List U32} {ls : List (List U32)}
    (h : symbolLines syms = l :: ls) :
    glyphTextFrom cur syms = ((cur || !l.isEmpty) && l.all inGlyph && ls.all fun l => !l.isEmpty && l.all inGlyph) := by
  induction syms generalizing cur l ls with
  | nil => cases h; simp [glyphTextFrom]
  | cons x t ih =>
    obtain ⟨l', ls', ht⟩ := exists_symbolLines t
    cases x with
    | brk =>
      rw [symbolLines, ht] at h; cases h
      simp [glyphTextFrom, ih false ht]
    | char c =>
      rw [symbolLines_char c ht] at h; cases h
      simp [glyphTextFrom, ih true ht, Bool.and_assoc]

/-- A block starts with its first line empty (R113). -/
theorem glyphTextFrom_false (syms : List InSymbol) : glyphTextFrom false syms = glyphText syms := by
  obtain ⟨l, ls, h⟩ := exists_symbolLines syms
  rw [glyphTextFrom_eq_lines false h, glyphText, h, List.all_cons, Bool.false_or]

/-! ## A symbol in an open block (R90, R91, R93) -/

/-- A block is being parsed or has been rejected: the states in which its symbols are accepted (R15). -/
def DecContext.Open (d : DecContext) : Prop := d.state = .active ∨ d.state = .reject

/-- The predicate of the block if `syms` were the rest of it, from the flags tracked so far (R93). -/
def DecContext.predAfter (d : DecContext) (syms : List InSymbol) : Bool := !d.prBad && glyphTextFrom d.prCur syms

theorem parseChar_open {maxW maxH : U16} {cp : U32} {d : DecContext} (h : d.state = .active) :
    (parseChar maxW maxH cp d).Open := by
  cases hu : unpackGlyph cp with
  | none => rw [parseChar_invalid _ _ _ hu]; exact .inr rfl
  | some p =>
    obtain ⟨n1, n2⟩ := p
    cases hp : d.pending with
    | false => rw [parseChar_first _ _ hu hp]; exact .inl h
    | true =>
      by_cases hover : maxW ≤ d.col ∨ maxH ≤ d.row
      · rw [parseChar_overflow hu hp hover]; exact .inr rfl
      · obtain ⟨hcol, hrow⟩ := not_or.1 hover
        rw [parseChar_second hu hp (BitVec.not_le.1 hcol) (BitVec.not_le.1 hrow)]; exact .inl h

/-- The word of a symbol's command decodes to it. -/
theorem decode_encode_symbolCommand (x : InSymbol) : decode (encode (symbolCommand x)) = .ok (symbolCommand x) := by
  cases x with
  | char cp => exact decode_append _ _
  | brk => decide

/-- `DEC_CHAR` in an open block leaves it open and tracks the predicate, whether or not it is still being parsed. -/
theorem exec_decChar_tracks (cp : U32) {s : State} (h : s.dec.Open) :
    ∃ d, exec (.decChar cp) s = .next { s with dec := d } ∧ d.Open ∧
      d.prCur = (predChar cp s.dec).prCur ∧ d.prBad = (predChar cp s.dec).prBad := by
  obtain h | h := h
  · exact ⟨_, exec_decChar_active cp h, parseChar_open h, parseChar_prCur _ _ _ _, parseChar_prBad _ _ _ _⟩
  · exact ⟨_, exec_decChar_reject cp h, .inr h, rfl, rfl⟩

/-- `DEC_BREAK` in an open block leaves it open and tracks the predicate, whether or not it is still being parsed. -/
theorem exec_decBreak_tracks {s : State} (h : s.dec.Open) :
    ∃ d, exec .decBreak s = .next { s with dec := d } ∧ d.Open ∧
      d.prCur = (predBreak s.dec).prCur ∧ d.prBad = (predBreak s.dec).prBad := by
  obtain h | h := h
  · have hopen : (closeRow (predBreak s.dec)).Open := (closeRow_cases (d := predBreak s.dec) h).imp (·.1) (·.1)
    exact ⟨_, exec_decBreak_active h, hopen, closeRow_prCur _, closeRow_prBad _⟩
  · exact ⟨_, exec_decBreak_reject h, .inr h, rfl, rfl⟩

/-- A symbol in an open block changes the decoder only, leaves the block open, and is the first of the symbols that the
predicate has still to see. -/
theorem exec_symbolCommand_open (x : InSymbol) {s : State} (h : s.dec.Open) :
    ∃ d, exec (symbolCommand x) s = .next { s with dec := d } ∧ d.Open ∧
      ∀ syms, d.predAfter syms = s.dec.predAfter (x :: syms) := by
  cases x with
  | char cp =>
    obtain ⟨d, hexec, hopen, hcur, hbad⟩ := exec_decChar_tracks cp h
    refine ⟨d, hexec, hopen, fun syms => ?_⟩
    simp [DecContext.predAfter, glyphTextFrom, hcur, hbad, Bool.and_assoc]
  | brk =>
    obtain ⟨d, hexec, hopen, hcur, hbad⟩ := exec_decBreak_tracks h
    refine ⟨d, hexec, hopen, fun syms => ?_⟩
    simp [DecContext.predAfter, glyphTextFrom, hcur, hbad, Bool.and_assoc]

/-! ## A whole block (R107, R111, R113) -/

/-- `DEC_END` closes an open block, with the predicate that no further symbol can change. -/
theorem exec_decEnd_tracks {s : State} (h : s.dec.Open) :
    ∃ d, exec .decEnd s = .next (emit .decDone (decDoneData d) { s with dec := d }) ∧ d.state = .done ∧
      d.pred = s.dec.predAfter [] := by
  have hpred : (!(predLine s.dec).prBad) = s.dec.predAfter [] := by simp [DecContext.predAfter, glyphTextFrom]
  obtain h | h := h
  · refine ⟨_, exec_decEnd_active h, finishBlock_state _, ?_⟩
    rw [finishBlock_pred, closeRow_prBad, hpred]
  · refine ⟨_, exec_decEnd_reject h, finishBlock_state _, ?_⟩
    rw [finishBlock_pred, hpred]

/-- The symbols of an open block and its `DEC_END` change the decoder and emit its one report. -/
theorem runInstrs_symbols_decEnd (syms : List InSymbol) {s : State} (h : s.dec.Open) :
    ∃ d, runInstrs (syms.map symbolCommand ++ [.decEnd]) s =
        .next (emit .decDone (decDoneData d) { s with dec := d }) ∧
      d.state = .done ∧ d.pred = s.dec.predAfter syms := by
  induction syms generalizing s with
  | nil =>
    obtain ⟨d, hexec, hdone, hpred⟩ := exec_decEnd_tracks h
    exact ⟨d, runInstrs_cons (by decide) [] hexec, hdone, hpred⟩
  | cons x syms ih =>
    obtain ⟨d, hexec, hopen, hafter⟩ := exec_symbolCommand_open x h
    obtain ⟨d', hrun, hdone, hpred⟩ := ih (s := { s with dec := d }) hopen
    exact ⟨d', (runInstrs_cons (decode_encode_symbolCommand x) _ hexec).trans hrun, hdone, hpred.trans (hafter syms)⟩

/-- `DECODE_SYMS` from a launch state runs to the end: it changes the decoder and emits its one report (R111, R113). -/
theorem runInstrs_decodeSyms (syms : List InSymbol) {s : State} (h : s.DecodeReady) :
    ∃ d, runInstrs (decodeSyms syms) s = .next (emit .decDone (decDoneData d) { s with dec := d }) ∧
      d.state = .done ∧ d.pred = glyphText syms := by
  obtain ⟨d, hrun, hdone, hpred⟩ :=
    runInstrs_symbols_decEnd syms (s := { s with dec := openBlock s.dec }) (.inl rfl)
  refine ⟨d, (runInstrs_cons (by decide) _ (exec_decStart_ready h)).trans hrun, hdone, ?_⟩
  exact hpred.trans (glyphTextFrom_false syms)

/-- Settles O43: by induction on the symbols, the two flags of an open block track the predicate of those seen, in `ACTIVE`
and in `REJECT` alike, and `DEC_END` publishes it. -/
theorem decPredIsTheGlyphTextPredicate : Obligations.DecPredIsTheGlyphTextPredicate := by
  intro syms s h
  obtain ⟨d, hrun, hdone, hpred⟩ := runInstrs_decodeSyms syms h
  refine ⟨_, hrun, hdone, rfl, rfl, hpred, newResponses_eq ?_⟩
  exact congrArg (fun v => s.responses ++ [⟨.decDone, v⟩]) (decDoneData_eq_ofNat d)

end Sys2Proof.Machine

namespace Sys2Proof.Machine

open Sys2Proof.Spec

/-! ## `NOP` (R120) -/

theorem exec_nop (s : State) : exec .nop s = .next s := rfl

/-- Settles O10: the command returns its state, and its word has no operand bits. -/
theorem nopDoesNothing : Obligations.NopDoesNothing := by
  refine ⟨exec_nop, ?_, fun arg h => ?_⟩
  · exact runs_of_decode (by decide)
  · exact illegal_of_arg_ne_zero (by decide) h

/-! ## The status words as numbers (R24) -/

theorem EncState.code_toNat (st : EncState) : st.code.toNat = encStateN st := by cases st <;> rfl

theorem DecState.code_toNat (st : DecState) : st.code.toNat = decStateN st := by cases st <;> rfl

theorem DecStatus.code_toNat (e : DecStatus) : e.code.toNat = decStatusN e := by cases e <;> rfl

/-- Two coordinates share a status word, the first in the low half. -/
theorem halves_toNat (hi lo : U16) : (hi ++ lo).toNat = lo.toNat + 65536 * hi.toNat := by
  rw [toNat_append]; omega

/-- The word of selector 5: the status below the three flags of the predicate. -/
theorem predicateFields_toNat (bad cur pred : Bool) (e : BitVec 3) :
    (0#25 ++ BitVec.ofBool bad ++ BitVec.ofBool cur ++ BitVec.ofBool pred ++ 0#1 ++ e).toNat =
      e.toNat + 16 * pred.toNat + 32 * cur.toNat + 64 * bad.toNat := by
  simp only [toNat_append, BitVec.toNat_ofBool, BitVec.toNat_ofNat]
  omega

/-- The word of selector 8: the held nibbles and their flag below the greatest row length. -/
theorem pixelFields_toNat (wmax : U16) (pending : Bool) (g r : Nibble) :
    (wmax ++ 0#7 ++ BitVec.ofBool pending ++ g ++ r).toNat =
      r.toNat + 16 * g.toNat + 256 * pending.toNat + 65536 * wmax.toNat := by
  simp only [toNat_append, BitVec.toNat_ofBool, BitVec.toNat_ofNat]
  omega

/-- The selectors that name a status word (R24). -/
theorem selector_cases {sel : Byte} (h : sel.toNat ≤ 8) :
    sel = 0#8 ∨ sel = 1#8 ∨ sel = 2#8 ∨ sel = 3#8 ∨ sel = 4#8 ∨ sel = 5#8 ∨ sel = 6#8 ∨ sel = 7#8 ∨ sel = 8#8 := by
  bv_omega

/-- Each status word is the sum of its fields at their bits (R24). -/
theorem statusWord_toNat {sel : Byte} (h : sel.toNat ≤ 8) (s : State) :
    (statusWord sel s).toNat = statusN sel.toNat s := by
  obtain rfl | rfl | rfl | rfl | rfl | rfl | rfl | rfl | rfl := selector_cases h
  · exact BitVec.toNat_setWidth_of_le (show 3 ≤ 32 by decide)
  · exact (BitVec.toNat_setWidth_of_le (show 1 ≤ 32 by decide)).trans s.enc.state.code_toNat
  · exact halves_toNat s.enc.h s.enc.w
  · exact halves_toNat s.enc.y s.enc.x
  · exact (BitVec.toNat_setWidth_of_le (show 2 ≤ 32 by decide)).trans s.dec.state.code_toNat
  · exact (predicateFields_toNat _ _ _ _).trans (by rw [DecStatus.code_toNat]; rfl)
  · exact halves_toNat s.dec.h s.dec.w
  · exact halves_toNat s.dec.row s.dec.col
  · exact pixelFields_toNat s.dec.wmax s.dec.pending s.dec.holdG s.dec.holdR

/-! ## `STAT_RD` (R121) -/

/-- `STAT_RD` with a selector of R24 emits its status word (R121). -/
theorem exec_statRd_of_selector {sel : Byte} (h : sel.toNat ≤ 8) (s : State) :
    exec (.statRd sel) s = .next (emit .stat (statusWord sel s) s) := by
  have hsel : selectorOk sel = true := decide_eq_true (BitVec.le_def.2 h)
  simp only [exec, execStatRd, hsel, if_true]

/-- Settles O11: the emitted word is the sum of its fields; a reserved selector is refused by the command, a reserved bit by
the decoder. -/
theorem statRdAnswersTheStatusWord : Obligations.StatRdAnswersTheStatusWord := by
  refine ⟨fun sel s h => ?_, fun sel s h => exec_statRd_of_reserved h s, fun sel => ?_, fun arg h => ?_⟩
  · rw [exec_statRd_of_selector h, ← emit_eq_answered .stat (statusWord_toNat h s) s, BitVec.setWidth_eq]
  · exact runs_of_decode (decode_statRd_word sel)
  · exact illegal_of_reserved_arg (p := (0x01#8, 8)) (by decide) h

end Sys2Proof.Machine

namespace Sys2Proof.Machine

open Sys2Proof.Spec

/-! ## What takes an interface fault, command by command (R138, R139) -/

/-- A command that is not legal in the state of its context takes `ProtocolError` (R138). -/
theorem exec_of_protocolError {i : Instr} {s : State} (h : protocolError i s) : exec i s = .next (raised 1 s) := by
  cases i with
  | encStart w h' => exact exec_encStart_active w h' h
  | encPix r g b a => exact eq_raised_of_eq_raise (execEncPix_idle r g b a h)
  | decStart => exact exec_decStart_open h
  | decChar cp => exact exec_decChar_closed cp h
  | decBreak => exact exec_decBreak_closed h
  | decEnd => exact exec_decEnd_closed h
  | gridRd x y => exact exec_gridRd_no_result x y h
  | nop | statRd _ | pfwd _ | pback _ | quant _ | dequant _ | mix _ _ _ _ | pack _ _ | unpack _ => exact h.elim

/-- A legal `GRID_RD` outside the result grid takes `AddressError` (R138, R139). -/
theorem exec_of_addressError {i : Instr} {s : State} (hlegal : ¬protocolError i s) (h : addressError i s) :
    exec i s = .next (raised 2 s) := by
  obtain ⟨x, y, rfl, hout⟩ := h
  obtain ⟨hdone, hok⟩ := Decidable.not_not.1 hlegal
  exact exec_gridRd_outside hdone hok hout

/-- The states of R15 that are no open block's are `IDLE` and `DONE`. -/
theorem DecContext.open_of_not_closed {d : DecContext} (h : ¬(d.state = .idle ∨ d.state = .done)) : d.Open := by
  cases hs : d.state with
  | idle => exact absurd (.inl hs) h
  | active => exact .inl hs
  | reject => exact .inr hs
  | done => exact absurd (.inr hs) h

theorem decodeReady_of_not_open {s : State} (h : ¬s.dec.Open) : s.DecodeReady :=
  not_not.1 fun hn => h (DecContext.open_of_not_closed hn)

/-- A command takes no fault when its selector is named, its context allows it, and it is no `GRID_RD` outside the grid:
R138 lists every cause. -/
theorem answers_of_no_cause {i : Instr} {s : State} (hsel : ∀ sel, i = .statRd sel → sel.toNat ≤ 8)
    (hlegal : ¬protocolError i s) (haddr : ¬addressError i s) : Answers i s := by
  cases i with
  | nop => exact ⟨s.enc, s.dec, [], by simp [exec_nop], by simp, by simp, fun _ => rfl, fun _ => rfl⟩
  | statRd sel => exact answers_one (exec_statRd_of_selector (hsel sel rfl) s) (by decide)
  | pfwd n => exact answers_one (exec_pfwd n s) (by decide)
  | pback n => exact answers_one (exec_pback n s) (by decide)
  | quant v => exact answers_one (exec_quant v s) (by decide)
  | dequant n => exact answers_one (exec_dequant n s) (by decide)
  | mix r g b a => exact answers_one (exec_mix r g b a s) (by decide)
  | pack n1 n2 => exact answers_one (exec_pack n1 n2 s) (by decide)
  | unpack cp =>
    cases hu : unpackGlyph cp with
    | none => exact answers_one (exec_unpack_of_none hu s) (by decide)
    | some p => exact answers_one (exec_unpack_of_some hu s) (by decide)
  | encStart w h =>
    cases hs : s.enc.state with
    | active => exact absurd hs hlegal
    | idle =>
      by_cases hz : w = 0#16 ∨ h = 0#16
      · exact ⟨_, s.dec, _, exec_encStart_zero_area hs hz, by simp, by simp, fun hn => absurd rfl hn, fun _ => rfl⟩
      · obtain ⟨hw, hh⟩ := not_or.1 hz
        exact answers_enc rfl (exec_encStart_grid hs hw hh)
  | encPix r g b a =>
    cases hs : s.enc.state with
    | idle => exact absurd hs hlegal
    | active =>
      refine ⟨_, s.dec, _, execEncPix_active r g b a hs, s.enc.length_pixelResponses r g b a, fun q hq hfault => ?_,
        fun hn => absurd rfl hn, fun _ => rfl⟩
      simpa [hfault] using s.enc.kind_pixelResponses r g b a q hq
  | decStart => exact answers_dec rfl (exec_decStart_ready (decodeReady_of_not_open hlegal))
  | decChar cp =>
    obtain ⟨d, hexec, -⟩ := exec_decChar_tracks cp (DecContext.open_of_not_closed hlegal)
    exact answers_dec rfl hexec
  | decBreak =>
    obtain ⟨d, hexec, -⟩ := exec_decBreak_tracks (DecContext.open_of_not_closed hlegal)
    exact answers_dec rfl hexec
  | decEnd =>
    obtain ⟨d, hexec, -⟩ := exec_decEnd_tracks (DecContext.open_of_not_closed hlegal)
    exact ⟨s.enc, d, _, hexec, by simp, by simp, fun _ => rfl, fun hn => absurd rfl hn⟩
  | gridRd x y =>
    obtain ⟨hdone, hok⟩ := Decidable.not_not.1 hlegal
    obtain ⟨hx, hy⟩ := not_or.1 fun hout => haddr ⟨x, y, rfl, hout⟩
    exact answers_one (exec_gridRd_inside hdone hok (BitVec.not_le.1 hx) (BitVec.not_le.1 hy)) (by decide)

/-! ## What takes an interface fault, word by word (R45, R46, R138) -/

theorem faultCause_lt_three {b : Nat} {c : U40} {s : State} (h : faultCause b c s) : b < 3 :=
  match b, h with
  | 0, _ | 1, _ | 2, _ => by decide

/-- A cause takes its fault, and does nothing else (R137, R138). -/
theorem step_of_faultCause {b : Nat} {c : U40} {s : State} (h : faultCause b c s) :
    step (onPort c s) = .next (raised b s) := by
  match b, h with
  | 0, .inl hnone =>
    cases hd : decode c with
    | ok i => exact absurd hd (hnone i)
    | error e => exact illegal_of_decode_error hd s
  | 0, .inr ⟨sel, hd, hsel⟩ => exact (runs_of_decode hd s).trans (exec_statRd_of_reserved hsel s)
  | 1, ⟨i, hd, hp⟩ => exact (runs_of_decode hd s).trans (exec_of_protocolError hp)
  | 2, ⟨i, hd, hlegal, ha⟩ => exact (runs_of_decode hd s).trans (exec_of_addressError hlegal ha)

/-- A word without a cause is a command that answers without a fault (R138). -/
theorem answers_of_no_faultCause {c : U40} {s : State} (h : ∀ b, ¬faultCause b c s) :
    ∃ i, decode c = .ok i ∧ Answers i s := by
  cases hd : decode c with
  | error e => exact absurd (.inl fun i hi => nomatch hd.symm.trans hi) (h 0)
  | ok i =>
    have hlegal : ¬protocolError i s := fun hp => h 1 ⟨i, hd, hp⟩
    refine ⟨i, rfl, answers_of_no_cause (fun sel hi => ?_) hlegal fun ha => h 2 ⟨i, hd, hlegal, ha⟩⟩
    exact Nat.not_lt.1 fun hlt => h 0 (.inr ⟨sel, hi ▸ hd, hlt⟩)

/-- Only a word with a cause is answered by `R_FAULT` (R138). -/
theorem exists_faultCause_of_fault {c : U40} {s t : State} {d : U32} (hstep : step (onPort c s) = .next t)
    (hd : ⟨.fault, d⟩ ∈ newResponses s t) : ∃ b, faultCause b c s := by
  by_contra hnone
  obtain ⟨i, hi, e, d', l, hexec, -, hquiet, -⟩ := answers_of_no_faultCause (not_exists.1 hnone)
  cases hstep.symm.trans ((runs_of_decode hi s).trans hexec)
  rw [newResponses_eq rfl] at hd
  exact hquiet _ hd rfl

/-- The one new response of a fault is its `R_FAULT` (R137). -/
theorem newResponses_raised (b : Nat) (s : State) :
    newResponses s (raised b s) = [⟨.fault, BitVec.ofNat 32 (2 ^ b)⟩] :=
  newResponses_eq rfl

/-- Settles O30: a cause fixes the whole step, so its `R_FAULT` is the one new response; and a step that emits an `R_FAULT`
has a cause, since a word without one answers otherwise. -/
theorem faultsHaveTheirCauses : Obligations.FaultsHaveTheirCauses := by
  intro c s t hstep
  have hraised : ∀ b, faultCause b c s → t = raised b s := fun b hb =>
    Host.Outcome.next.inj (hstep.symm.trans (step_of_faultCause hb))
  refine ⟨fun d => ⟨fun hd => ?_, fun ⟨b, _, hd, hb⟩ => ?_⟩, fun b _ => hraised b⟩
  · obtain ⟨b, hb⟩ := exists_faultCause_of_fault hstep hd
    rw [hraised b hb, newResponses_raised, List.mem_singleton] at hd
    exact ⟨b, faultCause_lt_three hb, congrArg Response.data hd, hb⟩
  · rw [hraised b hb, newResponses_raised, hd]
    exact List.mem_singleton_self _

end Sys2Proof.Machine

namespace Sys2Proof.Machine

open Sys2Proof.Spec

/-! ## Decoding an encoded command (R40, R41, R44) -/

/-- Settles O1: the opcode selects the command's own format, and each format reads back the operands it laid out. -/
theorem decodeInvertsEncode : Obligations.DecodeInvertsEncode := by
  intro i
  refine (decode_append i.op i.arg).trans ?_
  cases i with
  | nop | decStart | decBreak | decEnd => decide
  | statRd sel => exact formatB1_word sel _
  | pfwd n => exact formatN1_word n _
  | pback n => exact formatN1_word n _
  | quant v => exact formatB1_word v _
  | dequant n => exact formatN1_word n _
  | mix r g b a => exact formatP4_word r g b a _
  | pack n1 n2 => exact formatN2_word n1 n2 _
  | unpack cp => rfl
  | encStart w h => exact formatD2_word w h _
  | encPix r g b a => exact formatP4_word r g b a _
  | decChar cp => rfl
  | gridRd x y => exact formatD2_word x y _

/-! ## Encoding a decoded word: what each format accepts (R41, R46) -/

/-- An operand below `2^k` is its `k` low bits under zeros. -/
theorem zero_append_extract {n k : Nat} {arg : BitVec (n + k)} (h : arg.toNat < 2 ^ k) :
    0#n ++ arg.extractLsb' 0 k = arg := by
  refine BitVec.eq_of_toNat_eq ?_
  rw [toNat_append, BitVec.extractLsb'_toNat, Nat.shiftRight_zero, Nat.mod_eq_of_lt h]
  simp

/-- A word is its four bytes, the most significant first (R32, R41). -/
theorem append_extract_bytes (v : U32) :
    v.extractLsb' 24 8 ++ v.extractLsb' 16 8 ++ v.extractLsb' 8 8 ++ v.extractLsb' 0 8 = v := by
  refine BitVec.eq_of_toNat_eq ?_
  rw [show (v.extractLsb' 24 8 ++ v.extractLsb' 16 8 ++ v.extractLsb' 8 8 ++ v.extractLsb' 0 8 : U32).toNat = _ from
    toNat_append (v.extractLsb' 24 8 ++ v.extractLsb' 16 8 ++ v.extractLsb' 8 8) (v.extractLsb' 0 8),
    toNat_append, toNat_append]
  simp only [BitVec.extractLsb'_toNat, Nat.shiftRight_eq_div_pow]
  have := v.isLt
  omega

section Formats

variable {arg : U32} {i : Instr}

theorem arg_of_formatZ {j : Instr} (h : formatZ arg j = .ok i) : i = j ∧ arg = 0#32 := by
  rw [formatZ_eq] at h
  split at h <;> cases h
  exact ⟨rfl, BitVec.eq_of_toNat_eq (Nat.lt_one_iff.1 ‹_›)⟩

theorem arg_of_formatN1 {mk : Nibble → Instr} (h : formatN1 arg mk = .ok i) : ∃ n, i = mk n ∧ arg = 0#28 ++ n := by
  rw [formatN1_eq] at h
  split at h <;> cases h
  exact ⟨_, rfl, (zero_append_extract (n := 28) (k := 4) ‹_›).symm⟩

theorem arg_of_formatB1 {mk : Byte → Instr} (h : formatB1 arg mk = .ok i) : ∃ v, i = mk v ∧ arg = 0#24 ++ v := by
  rw [formatB1_eq] at h
  split at h <;> cases h
  exact ⟨_, rfl, (zero_append_extract (n := 24) (k := 8) ‹_›).symm⟩

theorem arg_of_formatN2 {mk : Nibble → Nibble → Instr} (h : formatN2 arg mk = .ok i) :
    ∃ n1 n2, i = mk n1 n2 ∧ arg = 0#24 ++ n2 ++ n1 := by
  rw [formatN2_eq] at h
  split at h <;> cases h
  rename_i hlt
  refine ⟨_, _, rfl, ?_⟩
  refine BitVec.eq_of_toNat_eq ?_
  rw [show (0#24 ++ arg.extractLsb' 4 4 ++ arg.extractLsb' 0 4 : U32).toNat = _ from
    toNat_append (0#24 ++ arg.extractLsb' 4 4) (arg.extractLsb' 0 4), toNat_append]
  simp only [BitVec.extractLsb'_toNat, BitVec.toNat_ofNat, Nat.shiftRight_eq_div_pow]
  omega

theorem arg_of_formatP4 {mk : Byte → Byte → Byte → Byte → Instr} (h : formatP4 arg mk = .ok i) :
    ∃ r g b a, i = mk r g b a ∧ arg = a ++ b ++ g ++ r := by
  cases h
  exact ⟨_, _, _, _, rfl, (append_extract_bytes arg).symm⟩

theorem arg_of_formatD2 {mk : U16 → U16 → Instr} (h : formatD2 arg mk = .ok i) : ∃ x y, i = mk x y ∧ arg = y ++ x := by
  cases h
  exact ⟨_, _, rfl, (append_extract (n := 16) (m := 16) arg).symm⟩

theorem arg_of_formatW {mk : U32 → Instr} (h : formatW arg mk = .ok i) : i = mk arg := by
  cases h; rfl

end Formats

/-- A word that decodes to a command has the command's opcode over its operand field (R40, R44, R46). -/
theorem fields_of_decode {o : Byte} {arg : U32} {i : Instr} (h : decode (o ++ arg) = .ok i) :
    o = i.op ∧ arg = i.arg := by
  rw [decode_append] at h
  iterate 16
    obtain ⟨ho, h⟩ | ⟨-, h⟩ := ite_eq_iff.1 h
    swap
  -- no opcode matches, then the opcodes from the last that the decoder compares to the first
  · cases h
  · obtain ⟨x, y, rfl, rfl⟩ := arg_of_formatD2 h; exact ⟨ho, rfl⟩
  · obtain ⟨rfl, rfl⟩ := arg_of_formatZ h; exact ⟨ho, rfl⟩
  · obtain ⟨rfl, rfl⟩ := arg_of_formatZ h; exact ⟨ho, rfl⟩
  · obtain rfl := arg_of_formatW h; exact ⟨ho, rfl⟩
  · obtain ⟨rfl, rfl⟩ := arg_of_formatZ h; exact ⟨ho, rfl⟩
  · obtain ⟨r, g, b, a, rfl, rfl⟩ := arg_of_formatP4 h; exact ⟨ho, rfl⟩
  · obtain ⟨x, y, rfl, rfl⟩ := arg_of_formatD2 h; exact ⟨ho, rfl⟩
  · obtain rfl := arg_of_formatW h; exact ⟨ho, rfl⟩
  · obtain ⟨n1, n2, rfl, rfl⟩ := arg_of_formatN2 h; exact ⟨ho, rfl⟩
  · obtain ⟨r, g, b, a, rfl, rfl⟩ := arg_of_formatP4 h; exact ⟨ho, rfl⟩
  · obtain ⟨n, rfl, rfl⟩ := arg_of_formatN1 h; exact ⟨ho, rfl⟩
  · obtain ⟨v, rfl, rfl⟩ := arg_of_formatB1 h; exact ⟨ho, rfl⟩
  · obtain ⟨n, rfl, rfl⟩ := arg_of_formatN1 h; exact ⟨ho, rfl⟩
  · obtain ⟨n, rfl, rfl⟩ := arg_of_formatN1 h; exact ⟨ho, rfl⟩
  · obtain ⟨v, rfl, rfl⟩ := arg_of_formatB1 h; exact ⟨ho, rfl⟩
  · obtain ⟨rfl, rfl⟩ := arg_of_formatZ h; exact ⟨ho, rfl⟩

/-- Settles O2: the fields of a word that decodes are those of the command it decodes to. -/
theorem encodeInvertsDecode : Obligations.EncodeInvertsDecode := by
  intro w i h
  rw [← opField_append_argField w] at h
  obtain ⟨hop, harg⟩ := fields_of_decode h
  rw [encode, ← hop, ← harg]
  exact opField_append_argField w

/-! ## The opcode table (R44) -/

open Laws.TableRow (reserved Statement append_and_append and_allOnes_byte)

/-- The row that the rule of R44 gives a command: its opcode alone, and a mask of the opcode and the reserved bits of
its format. -/
def tableRow (i : Instr) : TableRow := ⟨i.mnemonic, i.op ++ 0#32, 0xFF#8 ++ reserved i⟩

theorem tableRow_mem (i : Instr) : tableRow i ∈ table := by
  cases i <;> simp only [tableRow, Instr.mnemonic, Instr.op, reserved]
  · exact List.mem_of_getElem? (i := 0) rfl
  · exact List.mem_of_getElem? (i := 1) rfl
  · exact List.mem_of_getElem? (i := 2) rfl
  · exact List.mem_of_getElem? (i := 3) rfl
  · exact List.mem_of_getElem? (i := 4) rfl
  · exact List.mem_of_getElem? (i := 5) rfl
  · exact List.mem_of_getElem? (i := 6) rfl
  · exact List.mem_of_getElem? (i := 7) rfl
  · exact List.mem_of_getElem? (i := 8) rfl
  · exact List.mem_of_getElem? (i := 9) rfl
  · exact List.mem_of_getElem? (i := 10) rfl
  · exact List.mem_of_getElem? (i := 11) rfl
  · exact List.mem_of_getElem? (i := 12) rfl
  · exact List.mem_of_getElem? (i := 13) rfl
  · exact List.mem_of_getElem? (i := 14) rfl
  · exact List.mem_of_getElem? (i := 15) rfl

/-- A mnemonic names one row of the table. -/
theorem eq_tableRow {i : Instr} {row : TableRow} (hrow : row ∈ table) (h : i.mnemonic = row.mnemonic) :
    row = tableRow i :=
  List.inj_on_of_nodup_map (f := TableRow.mnemonic) (by decide) hrow (tableRow_mem i) h.symm

/-- The word of a command meets the mask and match of its row. -/
theorem statement_tableRow (i : Instr) : Statement i := by
  cases i with
  | nop => exact Laws.TableRow.nop
  | statRd _ => exact Laws.TableRow.statRd _
  | pfwd _ => exact Laws.TableRow.pfwd _
  | pback _ => exact Laws.TableRow.pback _
  | quant _ => exact Laws.TableRow.quant _
  | dequant _ => exact Laws.TableRow.dequant _
  | mix _ _ _ _ => exact Laws.TableRow.mix _ _ _ _
  | pack _ _ => exact Laws.TableRow.pack _ _
  | unpack _ => exact Laws.TableRow.unpack _
  | encStart _ _ => exact Laws.TableRow.encStart _ _
  | encPix _ _ _ _ => exact Laws.TableRow.encPix _ _ _ _
  | decStart => exact Laws.TableRow.decStart
  | decChar _ => exact Laws.TableRow.decChar _
  | decBreak => exact Laws.TableRow.decBreak
  | decEnd => exact Laws.TableRow.decEnd
  | gridRd _ _ => exact Laws.TableRow.gridRd _ _

/-- A word that matches a row has the row's opcode and none of its reserved bits. -/
theorem fields_of_match (p : Byte) (m : U32) {o : Byte} {arg : U32}
    (h : (o ++ arg : U40) &&& (0xFF#8 ++ m) = p ++ 0#32) : o = p ∧ arg &&& m = 0#32 := by
  rw [show (o ++ arg : U40) &&& (0xFF#8 ++ m) = _ from append_and_append o 0xFF#8 arg m, and_allOnes_byte] at h
  exact ⟨by rw [← opField_append o, h, opField_append], by rw [← argField_append o (arg &&& m), h, argField_append]⟩

/-- A word that matches a row decodes to a command of that row. -/
theorem decode_of_match {w : U40} {row : TableRow} (hrow : row ∈ table) (h : w &&& row.mask = row.mtch) :
    ∃ i, decode w = .ok i ∧ i.mnemonic = row.mnemonic := by
  rw [← opField_append_argField w] at h ⊢
  generalize opField w = o at h ⊢
  generalize argField w = arg at h ⊢
  simp only [table, List.mem_cons, List.not_mem_nil, or_false] at hrow
  obtain rfl | rfl | rfl | rfl | rfl | rfl | rfl | rfl | rfl | rfl | rfl | rfl | rfl | rfl | rfl | rfl := hrow
  · obtain ⟨rfl, hz⟩ := fields_of_match 0x00#8 0xFFFFFFFF#32 h; exact ⟨_, (decode_append _ _).trans (if_pos hz), rfl⟩
  · obtain ⟨rfl, hz⟩ := fields_of_match 0x01#8 0xFFFFFF00#32 h; exact ⟨_, (decode_append _ _).trans (if_pos hz), rfl⟩
  · obtain ⟨rfl, hz⟩ := fields_of_match 0x10#8 0xFFFFFFF0#32 h; exact ⟨_, (decode_append _ _).trans (if_pos hz), rfl⟩
  · obtain ⟨rfl, hz⟩ := fields_of_match 0x11#8 0xFFFFFFF0#32 h; exact ⟨_, (decode_append _ _).trans (if_pos hz), rfl⟩
  · obtain ⟨rfl, hz⟩ := fields_of_match 0x12#8 0xFFFFFF00#32 h; exact ⟨_, (decode_append _ _).trans (if_pos hz), rfl⟩
  · obtain ⟨rfl, hz⟩ := fields_of_match 0x13#8 0xFFFFFFF0#32 h; exact ⟨_, (decode_append _ _).trans (if_pos hz), rfl⟩
  · obtain ⟨rfl, -⟩ := fields_of_match 0x14#8 0#32 h; exact ⟨_, decode_append _ _, rfl⟩
  · obtain ⟨rfl, hz⟩ := fields_of_match 0x15#8 0xFFFFFF00#32 h; exact ⟨_, (decode_append _ _).trans (if_pos hz), rfl⟩
  · obtain ⟨rfl, -⟩ := fields_of_match 0x16#8 0#32 h; exact ⟨_, decode_append _ _, rfl⟩
  · obtain ⟨rfl, -⟩ := fields_of_match 0x20#8 0#32 h; exact ⟨_, decode_append _ _, rfl⟩
  · obtain ⟨rfl, -⟩ := fields_of_match 0x21#8 0#32 h; exact ⟨_, decode_append _ _, rfl⟩
  · obtain ⟨rfl, hz⟩ := fields_of_match 0x30#8 0xFFFFFFFF#32 h; exact ⟨_, (decode_append _ _).trans (if_pos hz), rfl⟩
  · obtain ⟨rfl, -⟩ := fields_of_match 0x31#8 0#32 h; exact ⟨_, decode_append _ _, rfl⟩
  · obtain ⟨rfl, hz⟩ := fields_of_match 0x32#8 0xFFFFFFFF#32 h; exact ⟨_, (decode_append _ _).trans (if_pos hz), rfl⟩
  · obtain ⟨rfl, hz⟩ := fields_of_match 0x33#8 0xFFFFFFFF#32 h; exact ⟨_, (decode_append _ _).trans (if_pos hz), rfl⟩
  · obtain ⟨rfl, -⟩ := fields_of_match 0x34#8 0#32 h; exact ⟨_, decode_append _ _, rfl⟩

/-- A command's own word matches its row. -/
theorem encode_matches (i : Instr) : encode i &&& (tableRow i).mask = (tableRow i).mtch := (statement_tableRow i).1

/-- Settles O3: a word that matches a row decodes to a command of that row, and a word that decodes is the command's
own, which matches its row. -/
theorem wordsSelectTableRows : Obligations.WordsSelectTableRows := by
  have matches_of_decode {w : U40} {i : Instr} (h : decode w = .ok i) :
      w &&& (tableRow i).mask = (tableRow i).mtch := encodeInvertsDecode w i h ▸ encode_matches i
  refine fun w => ⟨fun row hrow => ⟨decode_of_match hrow, fun ⟨i, hi, hname⟩ => ?_⟩, fun hnone row hrow h => ?_,
    fun hnone i hi => ?_⟩
  · rw [eq_tableRow hrow hname]
    exact matches_of_decode hi
  · obtain ⟨i, hi, -⟩ := decode_of_match hrow h
    exact hnone i hi
  · exact hnone _ (tableRow_mem i) (matches_of_decode hi)

end Sys2Proof.Machine

namespace Sys2Proof.Machine

open Sys2Proof.Spec

/-! ## Words, responses and steps (R4, R43, R52, R161) -/

/-- Settles O4: fourteen words, each decoded by evaluation. -/
theorem specWordsDecode : Obligations.SpecWordsDecode := by
  refine ⟨?_, ?_, ?_, ?_, ?_, ?_, ?_, ?_, ?_, ?_, ?_, ?_, ?_, ?_⟩ <;> decide

/-- Settles O5: the kind byte is the code of the kind, case by case. -/
theorem responseWordsCarryTheirKind : Obligations.ResponseWordsCarryTheirKind :=
  fun _ => ⟨rfl, rfl, rfl, rfl, rfl, rfl, rfl, rfl, rfl⟩

/-- Settles O6: a step with a word executes what the word decodes to, and one without waits. -/
theorem stepRunsTheDecodedCommand : Obligations.StepRunsTheDecodedCommand :=
  ⟨fun s c rest i hc hd => (step_of_command hc).trans (by rw [hd]), fun _ h => step_of_no_command h⟩

/-- Every command has a successor state (R161). -/
theorem exec_next (i : Instr) (s : State) : ∃ t, exec i s = .next t := by
  obtain ⟨f, h⟩ | ⟨e, d, l, h, -⟩ := exec_cases i s
  · exact ⟨_, h⟩
  · exact ⟨_, h⟩

/-- Settles O8: a step waits, faults or executes a command, and each has a next state. -/
theorem everyStepHasASuccessor : Obligations.EveryStepHasASuccessor := by
  intro s
  cases hc : s.commands with
  | nil => exact ⟨s, step_of_no_command hc⟩
  | cons c rest =>
    rw [step_of_command hc]
    cases decode c with
    | ok i => exact exec_next i _
    | error e => exact ⟨_, rfl⟩

/-! ## The laws of the quantizer and of the packer (R67, R80) -/

/-- The nibble in bits 6:3 of a byte whose other bits are 0. -/
theorem extract_shifted (n : Nibble) : (0#1 ++ n ++ 0#3 : Byte).extractLsb' 3 4 = n :=
  (extract_high (0#1 ++ n) 0#3 0 4).trans ((extract_low 0#1 n 0 4 (by decide)).trans (extract_all n))

theorem shifted_extract : ∀ v : Byte, 0#1 ++ v.extractLsb' 3 4 ++ 0#3 = v &&& 0x78#8 := by decide

theorem dequantize_quantize (v : Byte) : dequantize (quantize v) = v &&& 0x78#8 := by
  rw [dequantize, quantize, pback_pfwd, shifted_extract]

theorem quantize_dequantize (q : Nibble) : quantize (dequantize q) = q := by
  rw [dequantize, quantize, extract_shifted, pfwd_pback]

/-- Settles O19: the tables are inverse to each other, and the byte around the nibble is bits 6:3. -/
theorem quantizerCompositeLaws : Obligations.QuantizerCompositeLaws :=
  ⟨dequantize_quantize, quantize_dequantize, fun _ => quantize_dequantize _⟩

/-- The glyph at offset `o` of the alphabet unpacks to the interleaved bits of `o` (R78). -/
theorem unpackGlyph_offset : ∀ o : Byte, unpackGlyph (0x28#24 ++ o) =
    some (o.extractLsb' 6 1 ++ o.extractLsb' 0 3, o.extractLsb' 7 1 ++ o.extractLsb' 3 3) := by decide

/-- Packing puts the bits of `o` back in their places (R75). -/
theorem packGlyph_offset : ∀ o : Byte,
    (packGlyph (o.extractLsb' 6 1 ++ o.extractLsb' 0 3) (o.extractLsb' 7 1 ++ o.extractLsb' 3 3)).setWidth 32 =
      0x28#24 ++ o := by decide

theorem unpackGlyph_packGlyph : ∀ n1 n2 : Nibble, unpackGlyph ((packGlyph n1 n2).setWidth 32) = some (n1, n2) := by
  decide

/-- Settles O20: on the nibble pairs by evaluation, and on the glyphs through their offset in the alphabet. -/
theorem packAndUnpackAreInverse : Obligations.PackAndUnpackAreInverse := by
  refine ⟨unpackGlyph_packGlyph, fun cp hcp => ?_⟩
  obtain ⟨o, rfl⟩ := exists_offset ((inGlyph_iff cp).2 hcp)
  exact ⟨_, _, unpackGlyph_offset o, packGlyph_offset o⟩

/-! ## Reset (R26, R150) -/

/-- Settles O37: the stores of `DecContext.reset` list nothing, and in its state, `IDLE`, `GRID_RD` is not legal. -/
theorem resetLeavesTheStoresUnspecified : Obligations.ResetLeavesTheStoresUnspecified := by
  intro s hs
  have hdec : s.dec = DecContext.reset := by
    obtain rfl | ⟨s0, rfl⟩ := hs
    · rfl
    · exact hostReset_dec s0
  refine ⟨fun y => by rw [hdec]; rfl, fun y x => by rw [hdec]; rfl, fun x y => exec_gridRd_no_result x y ?_⟩
  rw [hdec]
  decide

end Sys2Proof.Machine

namespace Sys2Proof.Machine

open Sys2Proof.Spec

/-- Settles O31: a new `R_FAULT` has a cause, and a cause fixes the whole step. -/
theorem faultingCommandsDoNothingElse : Obligations.FaultingCommandsDoNothingElse := by
  intro c s t d hstep hd
  obtain ⟨b, hb⟩ := exists_faultCause_of_fault hstep hd
  obtain rfl : t = raised b s := Host.Outcome.next.inj (hstep.symm.trans (step_of_faultCause hb))
  rw [newResponses_raised, List.mem_singleton] at hd
  exact ⟨b, faultCause_lt_three hb, congrArg Response.data hd, rfl⟩

/-! ## The effect of a command (R37, R43, R115) -/

/-- The state after a command that leaves the contexts `e` and `d`, ORs `f` into `FAULT` and emits `l`. -/
def effect (e : EncContext) (d : DecContext) (f : BitVec 3) (l : List Response) (s : State) : State :=
  { s with enc := e, dec := d, fault := s.fault ||| f, responses := s.responses ++ l }

/-- Without a fault only the contexts and the response stream change. -/
theorem answer_eq_effect (e : EncContext) (d : DecContext) (l : List Response) (s : State) :
    { s with enc := e, dec := d, responses := s.responses ++ l } = effect e d 0#3 l s := by
  rw [effect, BitVec.or_zero]

/-- What a command of context `c` may emit (R43): at most four words, each laid out as its kind says, a symbol only from
the encoder and a result only from the decoder. -/
structure Emits (c : Context) (l : List Response) : Prop where
  length_le : l.length ≤ 4
  ok : ∀ r ∈ l, responseOk r
  noSymbol : c ≠ .encoder → ∀ r ∈ l, outSymbol r = none
  noResult : c ≠ .decoder → ∀ r ∈ l, decoderKind r = false

theorem emits_nil (c : Context) : Emits c [] := ⟨by simp, by simp, by simp, by simp⟩

theorem emits_singleton {c : Context} {r : Response} (hok : responseOk r) (hs : c ≠ .encoder → outSymbol r = none)
    (hr : c ≠ .decoder → decoderKind r = false) : Emits c [r] :=
  ⟨by simp, by simpa using hok, by simpa using hs, by simpa using hr⟩

/-- A fault may come from any command (R138). -/
theorem emits_fault (c : Context) (f : IfaceFault) : Emits c [⟨.fault, f.mask.setWidth 32⟩] :=
  emits_singleton (by cases f <;> simp [responseOk, IfaceFault.mask]) (fun _ => rfl) fun _ => rfl

theorem emits_val (c : Context) {n : Nat} (v : BitVec n) (hn : n ≤ 16) : Emits c [⟨.val, v.setWidth 32⟩] := by
  refine emits_singleton ?_ (fun _ => rfl) fun _ => rfl
  have hle : 2 ^ n ≤ 65536 := Nat.pow_le_pow_right (by decide) hn
  exact lt_of_lt_of_le (by rw [BitVec.toNat_setWidth_of_le (by omega)]; exact v.isLt) hle

theorem emits_invalidGlyph (c : Context) : Emits c [⟨.err, DecStatus.invalidGlyph.code.setWidth 32⟩] :=
  emits_singleton rfl (fun _ => rfl) fun _ => rfl

theorem emits_stat (c : Context) (v : U32) : Emits c [⟨.stat, v⟩] := emits_singleton trivial (fun _ => rfl) fun _ => rfl

theorem emits_pix (v : U32) : Emits .decoder [⟨.pix, v⟩] :=
  emits_singleton trivial (fun _ => rfl) fun h => absurd rfl h

theorem emits_eot : Emits .encoder [⟨.eot, 0#32⟩] := emits_singleton rfl (fun h => absurd rfl h) fun _ => rfl

/-- The result word holds the status and the predicate, and no other bit (R43). -/
theorem emits_decDone (d : DecContext) : Emits .decoder [⟨.decDone, decDoneData d⟩] := by
  refine emits_singleton ⟨d.status, d.pred, ?_⟩ (fun _ => rfl) fun h => absurd rfl h
  rw [show (Response.mk .decDone (decDoneData d)).data = _ from decDoneData_eq_ofNat d]
  cases d.status <;> cases d.pred <;> rfl

/-- Each glyph of a pixel is in the alphabet (R76). -/
theorem glyph_responseOk (n1 n2 : Nibble) : responseOk ⟨.glyph, (packGlyph n1 n2).setWidth 32⟩ :=
  (inGlyph_iff _).1 (inGlyph_packGlyph n1 n2)

theorem emits_pixelResponses (e : EncContext) (r g b a : Byte) : Emits .encoder (e.pixelResponses r g b a) where
  length_le := e.length_pixelResponses r g b a
  ok q hq := by
    simp only [EncContext.pixelResponses, List.mem_append, List.mem_cons, List.not_mem_nil, or_false,
      List.mem_ite_nil_right] at hq
    obtain (⟨-, rfl⟩ | rfl | rfl) | ⟨-, rfl⟩ := hq
    · rfl
    · exact glyph_responseOk _ _
    · exact glyph_responseOk _ _
    · rfl
  noSymbol h := absurd rfl h
  noResult _ q hq := by
    obtain h | h | h := e.kind_pixelResponses r g b a q hq <;> simp [decoderKind, h]

/-! ## Each context's commands depend on that context (R115) -/

/-- What an encoder command does is fixed by the encoder context. -/
theorem exec_encoder {i : Instr} (hi : i.context = .encoder) (e : EncContext) :
    ∃ e' f l, Emits .encoder l ∧ ∀ s, s.enc = e → exec i s = .next (effect e' s.dec f l s) := by
  cases i with
  | encStart w h =>
    cases he : e.state with
    | active => exact ⟨e, _, _, emits_fault _ .protocolError, by rintro s rfl; exact exec_encStart_active w h he⟩
    | idle =>
      by_cases hz : w = 0#16 ∨ h = 0#16
      · refine ⟨⟨.idle, w, h, 0#16, 0#16⟩, 0#3, _, emits_eot, ?_⟩
        rintro s rfl
        rw [exec_encStart_zero_area he hz, ← answer_eq_effect]
        rfl
      · obtain ⟨hw, hh⟩ := not_or.1 hz
        refine ⟨⟨.active, w, h, 0#16, 0#16⟩, 0#3, [], emits_nil _, ?_⟩
        rintro s rfl
        rw [exec_encStart_grid he hw hh, ← answer_eq_effect, List.append_nil]
  | encPix r g b a =>
    cases he : e.state with
    | idle => exact ⟨e, _, _, emits_fault _ .protocolError, by rintro s rfl; exact execEncPix_idle r g b a he⟩
    | active =>
      refine ⟨e.scanned, 0#3, _, emits_pixelResponses e r g b a, ?_⟩
      rintro s rfl
      rw [exec_encPix, execEncPix_active r g b a he, ← answer_eq_effect]
  | _ => exact absurd hi (by simp [Instr.context])

/-- What the command `i` does is the same in every state with decoder context `d` and capacity `mw × mh`. -/
def DecoderActs (mw mh : U16) (i : Instr) (d : DecContext) : Prop :=
  ∃ d' f l, Emits .decoder l ∧
    ∀ s, s.dec = d → s.maxW = mw → s.maxH = mh → exec i s = .next (effect s.enc d' f l s)

section DecoderActs

variable {mw mh : U16} {i : Instr} {d : DecContext}

theorem decoderActs_fault (f : IfaceFault) (h : ∀ s, s.dec = d → exec i s = .next (raised f.bit s)) :
    DecoderActs mw mh i d := by
  refine ⟨d, f.mask, _, emits_fault _ f, ?_⟩
  rintro s rfl - -
  rw [h s rfl, ← raise_eq_raised]
  rfl

theorem decoderActs_answer (d' : DecContext) {l : List Response} (hl : Emits .decoder l)
    (h : ∀ s, s.dec = d → s.maxW = mw → s.maxH = mh →
      exec i s = .next { s with dec := d', responses := s.responses ++ l }) :
    DecoderActs mw mh i d :=
  ⟨d', 0#3, l, hl, fun s hd hw hh => (h s hd hw hh).trans (congrArg _ (answer_eq_effect s.enc d' l s))⟩

theorem decoderActs_move (d' : DecContext)
    (h : ∀ s, s.dec = d → s.maxW = mw → s.maxH = mh → exec i s = .next { s with dec := d' }) : DecoderActs mw mh i d :=
  decoderActs_answer d' (emits_nil _) fun s hd hw hh => by rw [h s hd hw hh, List.append_nil]

theorem decoderActs_decDone (d' : DecContext) (h : ∀ s, s.dec = d → exec i s = .next (endBlock d' s)) :
    DecoderActs mw mh i d :=
  decoderActs_answer (finishBlock d') (emits_decDone (finishBlock d')) fun s hd _ _ => h s hd

end DecoderActs

/-- What a decoder command does is fixed by the decoder context and the capacity. -/
theorem exec_decoder {i : Instr} (hi : i.context = .decoder) (mw mh : U16) (d : DecContext) :
    DecoderActs mw mh i d := by
  cases i with
  | decStart =>
    by_cases hopen : d.state = .active ∨ d.state = .reject
    · exact decoderActs_fault .protocolError (by rintro s rfl; exact exec_decStart_open hopen)
    · refine decoderActs_move (openBlock d) ?_
      rintro s rfl - -
      exact exec_decStart_ready (decodeReady_of_not_open hopen)
  | decChar cp =>
    cases hd : d.state with
    | idle => exact decoderActs_fault .protocolError (by rintro s rfl; exact exec_decChar_closed cp (.inl hd))
    | active =>
      refine decoderActs_move (parseChar mw mh cp (predChar cp d)) ?_
      rintro s rfl rfl rfl
      exact exec_decChar_active cp hd
    | reject => exact decoderActs_move (predChar cp d) (by rintro s rfl - -; exact exec_decChar_reject cp hd)
    | done => exact decoderActs_fault .protocolError (by rintro s rfl; exact exec_decChar_closed cp (.inr hd))
  | decBreak =>
    cases hd : d.state with
    | idle => exact decoderActs_fault .protocolError (by rintro s rfl; exact exec_decBreak_closed (.inl hd))
    | active => exact decoderActs_move (closeRow (predBreak d)) (by rintro s rfl - -; exact exec_decBreak_active hd)
    | reject => exact decoderActs_move (predBreak d) (by rintro s rfl - -; exact exec_decBreak_reject hd)
    | done => exact decoderActs_fault .protocolError (by rintro s rfl; exact exec_decBreak_closed (.inr hd))
  | decEnd =>
    cases hd : d.state with
    | idle => exact decoderActs_fault .protocolError (by rintro s rfl; exact exec_decEnd_closed (.inl hd))
    | active => exact decoderActs_decDone (closeRow (predLine d)) (by rintro s rfl; exact exec_decEnd_active hd)
    | reject => exact decoderActs_decDone (predLine d) (by rintro s rfl; exact exec_decEnd_reject hd)
    | done => exact decoderActs_fault .protocolError (by rintro s rfl; exact exec_decEnd_closed (.inr hd))
  | gridRd x y =>
    by_cases hres : d.state = .done ∧ d.status = .ok
    · by_cases hout : d.w ≤ x ∨ d.h ≤ y
      · exact decoderActs_fault .addressError (by rintro s rfl; exact exec_gridRd_outside hres.1 hres.2 hout)
      · obtain ⟨hx, hy⟩ := not_or.1 hout
        refine decoderActs_answer d (emits_pix (BitVec.ofNat 32 (gridWord d y x).toNat)) ?_
        rintro s rfl - -
        exact exec_gridRd_inside hres.1 hres.2 (BitVec.not_le.1 hx) (BitVec.not_le.1 hy)
    · exact decoderActs_fault .protocolError (by rintro s rfl; exact exec_gridRd_no_result x y hres)
  | _ => exact absurd hi (by simp [Instr.context])

/-- What a command of no context does is fixed: it answers (R44). -/
theorem exec_contextless {i : Instr} (hi : i.context = .none) :
    ∃ l, Emits .none l ∧ ∀ s, exec i s = .next { s with responses := s.responses ++ l } := by
  cases i with
  | nop => exact ⟨[], emits_nil _, fun s => by rw [exec_nop, List.append_nil]⟩
  | pfwd n => exact ⟨_, emits_val _ (pfwd n) (by decide), exec_pfwd n⟩
  | pback n => exact ⟨_, emits_val _ (pback n) (by decide), exec_pback n⟩
  | quant v => exact ⟨_, emits_val _ (quantize v) (by decide), exec_quant v⟩
  | dequant n => exact ⟨_, emits_val _ (dequantize n) (by decide), exec_dequant n⟩
  | mix r g b a => exact ⟨_, emits_val _ (subcarrier r g b a) (by decide), exec_mix r g b a⟩
  | pack n1 n2 => exact ⟨_, emits_val _ (packGlyph n1 n2) (by decide), exec_pack n1 n2⟩
  | unpack cp =>
    cases hu : unpackGlyph cp with
    | none => exact ⟨_, emits_invalidGlyph _, exec_unpack_of_none hu⟩
    | some p => exact ⟨_, emits_val _ (p.2 ++ p.1) (by decide), exec_unpack_of_some hu⟩
  | _ => exact absurd hi (by simp [Instr.context])

/-- `STAT_RD` answers or faults, and writes no context (R121). -/
theorem exec_statRd_effect (sel : Byte) (s : State) :
    ∃ f l, Emits .readsAll l ∧ exec (.statRd sel) s = .next (effect s.enc s.dec f l s) := by
  by_cases hsel : sel.toNat ≤ 8
  · refine ⟨0#3, _, emits_stat _ (statusWord sel s), ?_⟩
    exact (exec_statRd_of_selector hsel s).trans (congrArg _ (answer_eq_effect s.enc s.dec _ s))
  · refine ⟨IfaceFault.illegalCommand.mask, _, emits_fault _ .illegalCommand, ?_⟩
    exact (exec_statRd_of_reserved (Nat.not_le.1 hsel) s).trans (congrArg _ (raise_eq_raised .illegalCommand s).symm)

/-- Every command: its effect, with its own context changed at most (R115). -/
theorem exec_effect (i : Instr) (s : State) :
    ∃ e d f l, exec i s = .next (effect e d f l s) ∧ Emits i.context l ∧
      (i.context ≠ .encoder → e = s.enc) ∧ (i.context ≠ .decoder → d = s.dec) := by
  cases hi : i.context with
  | none =>
    obtain ⟨l, hl, h⟩ := exec_contextless hi
    exact ⟨s.enc, s.dec, 0#3, l, (h s).trans (congrArg _ (answer_eq_effect _ _ l s)), hl, fun _ => rfl, fun _ => rfl⟩
  | readsAll =>
    cases i with
    | statRd sel =>
      obtain ⟨f, l, hl, h⟩ := exec_statRd_effect sel s
      exact ⟨_, _, f, l, h, hl, fun _ => rfl, fun _ => rfl⟩
    | _ => exact absurd hi (by simp [Instr.context])
  | encoder =>
    obtain ⟨e, f, l, hl, h⟩ := exec_encoder hi s.enc
    exact ⟨e, _, f, l, h s rfl, hl, fun hn => absurd rfl hn, fun _ => rfl⟩
  | decoder =>
    obtain ⟨d, f, l, hl, h⟩ := exec_decoder hi s.maxW s.maxH s.dec
    exact ⟨_, d, f, l, h s rfl rfl rfl, hl, fun _ => rfl, fun hn => absurd rfl hn⟩

/-- Settles O41: by the context of the command, whose effect is the same in every state with that context. -/
theorem commandsActOnTheirOwnContext : Obligations.CommandsActOnTheirOwnContext := by
  intro i
  refine ⟨fun s t h => ⟨exec_enc h, exec_dec h⟩, fun hi => ?_, fun hi s s' he => ?_, fun hi s s' hd hw hh => ?_⟩
  · obtain ⟨l, -, h⟩ := exec_contextless hi
    exact ⟨l, h⟩
  · obtain ⟨e, f, l, -, h⟩ := exec_encoder hi s.enc
    exact ⟨e, f, l, h s rfl, h s' he.symm⟩
  · obtain ⟨d, f, l, -, h⟩ := exec_decoder hi s.maxW s.maxH s.dec
    exact ⟨d, f, l, h s rfl rfl rfl, h s' hd.symm hw.symm hh.symm⟩

/-- Settles O9: a step takes one word off the stream and waits, raises `IllegalCommand`, or has its command's effect. -/
theorem stepsAppendAtMostFourResponses : Obligations.StepsAppendAtMostFourResponses := by
  intro s t h
  obtain ⟨hnil, rfl⟩ | ⟨c, rest, hc, ⟨i, -, hexec⟩ | ⟨-, rfl⟩⟩ := step_cases h
  · exact ⟨⟨[], by simp, by simp, by simp⟩, rfl, rfl, by rw [hnil]; rfl⟩
  · obtain ⟨e, d, f, l, heff, hl, -⟩ := exec_effect i { s with commands := rest }
    cases heff.symm.trans hexec
    exact ⟨⟨l, rfl, hl.length_le, hl.ok⟩, rfl, rfl, by rw [hc]; rfl⟩
  · have hl := emits_fault .none .illegalCommand
    exact ⟨⟨_, rfl, hl.length_le, hl.ok⟩, rfl, rfl, by rw [hc]; rfl⟩

/-! ## Runs of commands of one context among others (R115, R160) -/

/-- A run goes command by command. -/
theorem runInstrs_exec {i : Instr} (is : List Instr) {s s' : State} (h : exec i s = .next s') :
    runInstrs (i :: is) s = runInstrs is s' := runInstrs_cons (decodeInvertsEncode i) is h

/-- A relation of two states that every command of a group keeps when both execute it, and every other command keeps
when the first executes it, relates a run of any list to the run of its commands of the group. -/
theorem runInstrs_filter {p : Instr → Bool} {R : State → State → Prop}
    (hown : ∀ i s s', p i = true → R s s' → ∃ t t', exec i s = .next t ∧ exec i s' = .next t' ∧ R t t')
    (hother : ∀ i s s', ¬p i = true → R s s' → ∃ t, exec i s = .next t ∧ R t s')
    (is : List Instr) {s s' : State} (h : R s s') :
    ∃ t t', runInstrs is s = .next t ∧ runInstrs (is.filter p) s' = .next t' ∧ R t t' := by
  induction is generalizing s s' with
  | nil => exact ⟨s, s', rfl, rfl, h⟩
  | cons i is ih =>
    by_cases hi : p i = true
    · obtain ⟨t, t', hexec, hexec', hR⟩ := hown i s s' hi h
      rw [runInstrs_exec is hexec, List.filter_cons_of_pos hi, runInstrs_exec _ hexec']
      exact ih hR
    · obtain ⟨t, hexec, hR⟩ := hother i s s' hi h
      rw [runInstrs_exec is hexec, List.filter_cons_of_neg hi]
      exact ih hR

/-- Since `s`, two runs have come to one encoder context and have emitted the same symbols. -/
structure SameEncoder (s t te : State) : Prop where
  enc : t.enc = te.enc
  symbols : ∃ l le, t.responses = s.responses ++ l ∧ te.responses = s.responses ++ le ∧ outSymbols l = outSymbols le

/-- Since `s`, two runs have come to one decoder context, over one capacity, and have emitted the same results. -/
structure SameDecoder (s t td : State) : Prop where
  dec : t.dec = td.dec
  maxW : t.maxW = td.maxW
  maxH : t.maxH = td.maxH
  results : ∃ l ld, t.responses = s.responses ++ l ∧ td.responses = s.responses ++ ld ∧
    l.filter decoderKind = ld.filter decoderKind

theorem outSymbols_append (l l' : List Response) : outSymbols (l ++ l') = outSymbols l ++ outSymbols l' :=
  List.filterMap_append

/-- A command outside the encoder group emits no symbol. -/
theorem outSymbols_of_emits {c : Context} {l : List Response} (hl : Emits c l) (hc : c ≠ .encoder) :
    outSymbols l = [] :=
  List.filterMap_eq_nil_iff.2 (hl.noSymbol hc)

/-- A command outside the decoder group emits no result. -/
theorem filter_decoderKind_of_emits {c : Context} {l : List Response} (hl : Emits c l) (hc : c ≠ .decoder) :
    l.filter decoderKind = [] :=
  List.filter_eq_nil_iff.2 fun r hr => by simp [hl.noResult hc r hr]

theorem SameEncoder.own {i : Instr} (hi : i.context = .encoder) {s t te : State} (h : SameEncoder s t te) :
    ∃ u ue, exec i t = .next u ∧ exec i te = .next ue ∧ SameEncoder s u ue := by
  obtain ⟨henc, l, le, hl, hle, hsyms⟩ := h
  obtain ⟨e, f, l', -, hexec⟩ := exec_encoder hi t.enc
  refine ⟨_, _, hexec t rfl, hexec te henc.symm, rfl, l ++ l', le ++ l', ?_, ?_, ?_⟩
  · rw [effect, hl, List.append_assoc]
  · rw [effect, hle, List.append_assoc]
  · rw [outSymbols_append, outSymbols_append, hsyms]

theorem SameEncoder.other {i : Instr} (hi : i.context ≠ .encoder) {s t te : State} (h : SameEncoder s t te) :
    ∃ u, exec i t = .next u ∧ SameEncoder s u te := by
  obtain ⟨henc, l, le, hl, hle, hsyms⟩ := h
  obtain ⟨e, d, f, l', hexec, hemit, he, -⟩ := exec_effect i t
  refine ⟨_, hexec, (he hi).trans henc, l ++ l', le, ?_, hle, ?_⟩
  · rw [effect, hl, List.append_assoc]
  · rw [outSymbols_append, outSymbols_of_emits hemit hi, List.append_nil, hsyms]

theorem SameDecoder.own {i : Instr} (hi : i.context = .decoder) {s t td : State} (h : SameDecoder s t td) :
    ∃ u ud, exec i t = .next u ∧ exec i td = .next ud ∧ SameDecoder s u ud := by
  obtain ⟨hdec, hw, hh, l, ld, hl, hld, hres⟩ := h
  obtain ⟨d, f, l', -, hexec⟩ := exec_decoder hi t.maxW t.maxH t.dec
  refine ⟨_, _, hexec t rfl rfl rfl, hexec td hdec.symm hw.symm hh.symm, rfl, hw, hh, l ++ l', ld ++ l', ?_, ?_, ?_⟩
  · rw [effect, hl, List.append_assoc]
  · rw [effect, hld, List.append_assoc]
  · rw [List.filter_append, List.filter_append, hres]

theorem SameDecoder.other {i : Instr} (hi : i.context ≠ .decoder) {s t td : State} (h : SameDecoder s t td) :
    ∃ u, exec i t = .next u ∧ SameDecoder s u td := by
  obtain ⟨hdec, hw, hh, l, ld, hl, hld, hres⟩ := h
  obtain ⟨e, d, f, l', hexec, hemit, -, hd⟩ := exec_effect i t
  refine ⟨_, hexec, (hd hi).trans hdec, hw, hh, l ++ l', ld, ?_, hld, ?_⟩
  · rw [effect, hl, List.append_assoc]
  · rw [List.filter_append, filter_decoderKind_of_emits hemit hi, List.append_nil, hres]

/-- Settles O42: the one run is related to the run of its encoder commands and to that of its decoder commands, command
by command. -/
theorem interleavedTransactionsDoNotInterfere : Obligations.InterleavedTransactionsDoNotInterfere := by
  intro is s
  obtain ⟨t, te, hrun, hrune, henc, l, le, hl, hle, hsyms⟩ :=
    runInstrs_filter (p := fun i => i.context == .encoder) (R := SameEncoder s)
      (fun i t te hi h => h.own (eq_of_beq hi)) (fun i t te hi h => h.other fun hc => hi (beq_iff_eq.2 hc)) is
      ⟨rfl, [], [], (List.append_nil _).symm, (List.append_nil _).symm, rfl⟩
  obtain ⟨t', td, hrun', hrund, hdec, -, -, l', ld, hl', hld, hres⟩ :=
    runInstrs_filter (p := fun i => i.context == .decoder) (R := SameDecoder s)
      (fun i t td hi h => h.own (eq_of_beq hi)) (fun i t td hi h => h.other fun hc => hi (beq_iff_eq.2 hc)) is
      ⟨rfl, rfl, rfl, [], [], (List.append_nil _).symm, (List.append_nil _).symm, rfl⟩
  obtain rfl : t = t' := Host.Outcome.next.inj (hrun.symm.trans hrun')
  refine ⟨t, te, td, hrun, hrune, hrund, henc, ?_, hdec, ?_⟩
  · rw [newResponses_eq hl, newResponses_eq hle, hsyms]
  · rw [newResponses_eq hl', newResponses_eq hld, hres]

end Sys2Proof.Machine

namespace Sys2Proof.Machine

open Sys2Proof.Spec

/-! ## Where a command takes each context (R106) -/

/-- What the command `i` can make of the encoder context of `s`. -/
inductive EncMove (s : State) : Instr → EncContext → Prop
  | stay {i : Instr} (h : i.context = .encoder → protocolError i s) : EncMove s i s.enc
  | zeroArea {w h : U16} (hs : s.enc.state = .idle) (hz : w = 0#16 ∨ h = 0#16) :
    EncMove s (.encStart w h) ⟨.idle, w, h, 0#16, 0#16⟩
  | grid {w h : U16} (hs : s.enc.state = .idle) (hw : w ≠ 0#16) (hh : h ≠ 0#16) :
    EncMove s (.encStart w h) ⟨.active, w, h, 0#16, 0#16⟩
  | pixel {r g b a : Byte} (hs : s.enc.state = .active) : EncMove s (.encPix r g b a) s.enc.scanned

/-- What the command `i` can make of the decoder context of `s`. -/
inductive DecMove (s : State) : Instr → DecContext → Prop
  | stay {i : Instr} (h : i.context = .decoder → protocolError i s ∨ ∃ x y, i = .gridRd x y) : DecMove s i s.dec
  | start (hs : s.DecodeReady) : DecMove s .decStart (openBlock s.dec)
  | char {cp : U32} (hs : s.dec.state = .active) :
    DecMove s (.decChar cp) (parseChar s.maxW s.maxH cp (predChar cp s.dec))
  | charRejected {cp : U32} (hs : s.dec.state = .reject) : DecMove s (.decChar cp) (predChar cp s.dec)
  | brk (hs : s.dec.state = .active) : DecMove s .decBreak (closeRow (predBreak s.dec))
  | brkRejected (hs : s.dec.state = .reject) : DecMove s .decBreak (predBreak s.dec)
  | finish (hs : s.dec.state = .active) : DecMove s .decEnd (finishBlock (closeRow (predLine s.dec)))
  | finishRejected (hs : s.dec.state = .reject) : DecMove s .decEnd (finishBlock (predLine s.dec))

theorem exec_encMove {i : Instr} {s t : State} (h : exec i s = .next t) : EncMove s i t.enc := by
  by_cases hp : protocolError i s
  · cases (exec_of_protocolError hp).symm.trans h
    exact .stay fun _ => hp
  cases i with
  | encStart w h' =>
    have hs : s.enc.state = .idle := by
      cases hs : s.enc.state with
      | idle => rfl
      | active => exact absurd hs hp
    by_cases hz : w = 0#16 ∨ h' = 0#16
    · cases (exec_encStart_zero_area hs hz).symm.trans h
      exact .zeroArea hs hz
    · obtain ⟨hw, hh⟩ := not_or.1 hz
      cases (exec_encStart_grid hs hw hh).symm.trans h
      exact .grid hs hw hh
  | encPix r g b a =>
    have hs : s.enc.state = .active := by
      cases hs : s.enc.state with
      | idle => exact absurd hs hp
      | active => rfl
    cases (execEncPix_active r g b a hs).symm.trans h
    exact .pixel hs
  | _ =>
    rw [exec_enc h (by simp [Instr.context])]
    exact .stay fun hi => absurd hi (by simp [Instr.context])

theorem exec_decMove {i : Instr} {s t : State} (h : exec i s = .next t) : DecMove s i t.dec := by
  by_cases hp : protocolError i s
  · cases (exec_of_protocolError hp).symm.trans h
    exact .stay fun _ => .inl hp
  cases i with
  | decStart =>
    have hs : s.DecodeReady := decodeReady_of_not_open hp
    cases (exec_decStart_ready hs).symm.trans h
    exact .start hs
  | decChar cp =>
    obtain hs | hs := DecContext.open_of_not_closed hp
    · cases (exec_decChar_active cp hs).symm.trans h
      exact .char hs
    · cases (exec_decChar_reject cp hs).symm.trans h
      exact .charRejected hs
  | decBreak =>
    obtain hs | hs := DecContext.open_of_not_closed hp
    · cases (exec_decBreak_active hs).symm.trans h
      exact .brk hs
    · cases (exec_decBreak_reject hs).symm.trans h
      exact .brkRejected hs
  | decEnd =>
    obtain hs | hs := DecContext.open_of_not_closed hp
    · cases (exec_decEnd_active hs).symm.trans h
      exact .finish hs
    · cases (exec_decEnd_reject hs).symm.trans h
      exact .finishRejected hs
  | gridRd x y =>
    have hdec : t.dec = s.dec := by
      by_cases ha : addressError (.gridRd x y) s
      · cases (exec_of_addressError hp ha).symm.trans h
        rfl
      · obtain ⟨hdone, hok⟩ := Decidable.not_not.1 hp
        obtain ⟨hx, hy⟩ := not_or.1 fun hout => ha ⟨x, y, rfl, hout⟩
        cases (exec_gridRd_inside hdone hok (BitVec.not_le.1 hx) (BitVec.not_le.1 hy)).symm.trans h
        rfl
    rw [hdec]
    exact .stay fun _ => .inr ⟨x, y, rfl⟩
  | _ =>
    rw [exec_dec h (by simp [Instr.context])]
    exact .stay fun hi => absurd hi (by simp [Instr.context])

/-! ## A rejected block (R134, R142) -/

/-- What a command leaves of a rejected block: its error, its position and its stores, until it is closed with no
result. -/
theorem exec_rejected {i : Instr} {s t : State} (hs : s.dec.state = .reject) (h : exec i s = .next t) :
    t.dec.status = s.dec.status ∧ t.dec.pending = s.dec.pending ∧ t.dec.holdR = s.dec.holdR ∧
    t.dec.holdG = s.dec.holdG ∧ t.dec.col = s.dec.col ∧ t.dec.row = s.dec.row ∧ t.dec.wmax = s.dec.wmax ∧
    t.dec.rowLen = s.dec.rowLen ∧ t.dec.grid = s.dec.grid ∧
    (t.dec.state = .reject ∨ t.dec.state = .done ∧ t.dec.w = 0#16 ∧ t.dec.h = 0#16) := by
  have hmove := exec_decMove h
  generalize t.dec = d at hmove ⊢
  cases hmove with
  | stay _ | charRejected _ | brkRejected _ => exact ⟨rfl, rfl, rfl, rfl, rfl, rfl, rfl, rfl, rfl, .inl hs⟩
  | start hready => obtain hs' | hs' := hready <;> cases hs.symm.trans hs'
  | char hs' | brk hs' | finish hs' => cases hs.symm.trans hs'
  | finishRejected _ =>
    rw [finishBlock_reject (d := predLine s.dec) hs]
    exact ⟨rfl, rfl, rfl, rfl, rfl, rfl, rfl, rfl, rfl, .inr ⟨rfl, rfl, rfl⟩⟩

/-- Settles O33: a step waits, takes a fault, which leaves the decoder alone, or executes a command. -/
theorem rejectedBlocksKeepTheirFirstError : Obligations.RejectedBlocksKeepTheirFirstError := by
  intro s t hs h
  obtain ⟨-, rfl⟩ | ⟨c, rest, -, ⟨i, -, hexec⟩ | ⟨-, rfl⟩⟩ := step_cases h
  · exact ⟨rfl, rfl, rfl, rfl, rfl, rfl, rfl, rfl, rfl, .inl hs⟩
  · exact exec_rejected (s := { s with commands := rest }) hs hexec
  · exact ⟨rfl, rfl, rfl, rfl, rfl, rfl, rfl, rfl, rfl, .inl hs⟩

/-! ## The transitions of the state machines (R106) -/

/-- The scan ends on the last pixel of the last row (R103, R106). -/
theorem EncContext.scanned_idle_iff_last {e : EncContext} (hactive : e.state = .active) (hinv : EncContext.Inv e) :
    e.scanned.state = .idle ↔ e.x.toNat + 1 = e.w.toNat ∧ e.y.toNat + 1 = e.h.toNat := by
  obtain ⟨hrow, -, hstate, -⟩ | ⟨hrow, -, hstate, -⟩ := scanned_cases hactive hinv
  · exact iff_of_false hstate fun hlast => Nat.ne_of_lt hrow hlast.1
  · rw [hstate]
    exact (and_iff_right hrow).symm

theorem encArrow_of_move {i : Instr} {s : State} {e : EncContext} (hinv : EncContext.Inv s.enc) (h : EncMove s i e) :
    e.state = encArrow i s := by
  cases h with
  | stay hstay =>
    cases i with
    | encStart w h' =>
      have hs : s.enc.state = .active := hstay rfl
      simp [encArrow, hs]
    | encPix r g b a =>
      have hs : s.enc.state = .idle := hstay rfl
      simp [encArrow, hs]
    | _ => rfl
  | zeroArea hs hz => simp [encArrow, hs, hz]
  | grid hs hw hh => simp [encArrow, hw, hh]
  | pixel hs =>
    have hlast := EncContext.scanned_idle_iff_last hs hinv
    cases hst : s.enc.scanned.state with
    | idle => simp [encArrow, hlast.1 hst]
    | active =>
      have hnot : ¬(s.enc.x.toNat + 1 = s.enc.w.toNat ∧ s.enc.y.toNat + 1 = s.enc.h.toNat) := fun hl =>
        EncState.noConfusion (hst.symm.trans (hlast.2 hl))
      exact (if_pos ⟨hs, hnot⟩).symm

/-- `DEC_CHAR` in `ACTIVE` rejects the block exactly on its named causes (R131, R132, R136). -/
theorem parseArrow_parseChar (cp : U32) {s : State} (hs : s.dec.state = .active) :
    parseArrow (charError cp s) .active (parseChar s.maxW s.maxH cp (predChar cp s.dec)).state := by
  by_cases hg : isGlyph cp
  · obtain ⟨n1, n2, hu, -⟩ := unpackGlyph_of_isGlyph hg
    cases hp : s.dec.pending with
    | false =>
      rw [parseChar_first (d := predChar cp s.dec) _ _ hu hp]
      exact .inr ⟨by simp [charError, hg, hp], hs⟩
    | true =>
      by_cases hover : s.maxW ≤ s.dec.col ∨ s.maxH ≤ s.dec.row
      · rw [parseChar_overflow (d := predChar cp s.dec) hu hp hover]
        exact .inl ⟨.inr ⟨hp, hover⟩, rfl⟩
      · obtain ⟨hcol, hrow⟩ := not_or.1 hover
        rw [parseChar_second (d := predChar cp s.dec) hu hp (BitVec.not_le.1 hcol) (BitVec.not_le.1 hrow)]
        exact .inr ⟨fun herr => herr.elim (fun hn => hn hg) fun hn => hover hn.2, hs⟩
  · rw [parseChar_invalid _ _ _ (unpackGlyph_of_not_isGlyph hg)]
    exact .inl ⟨.inl hg, rfl⟩

/-- `DEC_BREAK` in `ACTIVE` rejects the block exactly on an odd row (R92). -/
theorem parseArrow_closeRow {d : DecContext} (hs : d.state = .active) :
    parseArrow (d.pending = true) .active (closeRow (predBreak d)).state := by
  cases hp : d.pending with
  | true =>
    rw [closeRow_odd (d := predBreak d) hp]
    exact .inl ⟨rfl, rfl⟩
  | false =>
    refine .inr ⟨Bool.false_ne_true, ?_⟩
    by_cases hc : d.col = 0#16
    · rw [closeRow_empty (d := predBreak d) hp hc]
      exact hs
    · rw [closeRow_counted (d := predBreak d) hp hc]
      exact hs

theorem decArrow_of_move {i : Instr} {s : State} {d : DecContext} (h : DecMove s i d) : decArrow i s d.state := by
  cases h with
  | stay hstay =>
    cases i with
    | decStart =>
      have hp : protocolError .decStart s := (hstay rfl).resolve_right (by simp)
      obtain hs | hs := hp <;> simp [decArrow, decStartArrow, hs]
    | decChar cp =>
      have hp : protocolError (.decChar cp) s := (hstay rfl).resolve_right (by simp)
      obtain hs | hs := hp <;> simp [decArrow, parseArrow, hs]
    | decBreak =>
      have hp : protocolError .decBreak s := (hstay rfl).resolve_right (by simp)
      obtain hs | hs := hp <;> simp [decArrow, parseArrow, hs]
    | decEnd =>
      have hp : protocolError .decEnd s := (hstay rfl).resolve_right (by simp)
      obtain hs | hs := hp <;> simp [decArrow, decEndArrow, hs]
    | _ => rfl
  | start hs => obtain hs | hs := hs <;> simp [decArrow, decStartArrow, hs]
  | char hs =>
    rw [decArrow, hs]
    exact parseArrow_parseChar _ hs
  | charRejected hs | brkRejected hs => simp [decArrow, parseArrow, hs]
  | brk hs =>
    rw [decArrow, hs]
    exact parseArrow_closeRow hs
  | finish hs | finishRejected hs => rw [decArrow, hs, finishBlock_state]; rfl

/-- Settles O34: each context moves as its part of the table says. -/
theorem stateMachinesFollowTheirTable : Obligations.StateMachinesFollowTheirTable :=
  fun _ _ _ hinv h => ⟨encArrow_of_move hinv (exec_encMove h), decArrow_of_move (exec_decMove h)⟩

/-! ## What writes a store (R30, R35) -/

/-- What the parse of a character can make of a context: a decode error, a glyph held, or a cell stored (R90). -/
theorem parseChar_moves (mw mh : U16) (cp : U32) (d : DecContext) :
    (∃ e, (e = .invalidGlyph ∨ e = .gridOverflow) ∧ parseChar mw mh cp d = reject e d) ∨
    (∃ n1 n2, parseChar mw mh cp d = { d with holdR := n1, holdG := n2, pending := true }) ∨
    ∃ n1, d.pending = true ∧ d.col < mw ∧ d.row < mh ∧ parseChar mw mh cp d =
      { memWrite d.row d.col (decodedCell d.holdR d.holdG n1) d with col := d.col + 1#16, pending := false } := by
  cases hu : unpackGlyph cp with
  | none => exact .inl ⟨_, .inl rfl, parseChar_invalid mw mh d hu⟩
  | some p =>
    cases hp : d.pending with
    | false => exact .inr (.inl ⟨_, _, parseChar_first mw mh hu hp⟩)
    | true =>
      by_cases hover : mw ≤ d.col ∨ mh ≤ d.row
      · exact .inl ⟨_, .inr rfl, parseChar_overflow hu hp hover⟩
      · obtain ⟨hcol, hrow⟩ := not_or.1 hover
        exact .inr (.inr ⟨_, rfl, BitVec.not_le.1 hcol, BitVec.not_le.1 hrow,
          parseChar_second hu hp (BitVec.not_le.1 hcol) (BitVec.not_le.1 hrow)⟩)

/-- What closing a row can make of a context: a decode error, nothing, or a row counted (R92). -/
theorem closeRow_moves (d : DecContext) :
    (d.pending = true ∧ closeRow d = reject .invalidRowLength d) ∨
    (d.pending = false ∧ d.col = 0#16 ∧ closeRow d = d) ∨
    (d.pending = false ∧ d.col ≠ 0#16 ∧ closeRow d = { rowLenWrite d.row d.col d with
      wmax := if d.wmax ≤ d.col then d.col else d.wmax, row := d.row + 1#16, col := 0#16 }) := by
  cases hp : d.pending with
  | true => exact .inl ⟨rfl, closeRow_odd hp⟩
  | false =>
    by_cases hc : d.col = 0#16
    · exact .inr (.inl ⟨rfl, hc, closeRow_empty hp hc⟩)
    · exact .inr (.inr ⟨rfl, hc, closeRow_counted hp hc⟩)

/-- The parse writes the cell of the position, on a second glyph, and no other. -/
theorem cell_of_parseChar {mw mh : U16} {cp : U32} {d : DecContext} {y x : U16}
    (hne : memRead (parseChar mw mh cp d) y x ≠ memRead d y x) : y = d.row ∧ x = d.col ∧ d.pending = true := by
  obtain ⟨e, -, h⟩ | ⟨n1, n2, h⟩ | ⟨n1, hp, -, -, h⟩ := parseChar_moves mw mh cp d <;> rw [h] at hne
  · exact absurd rfl hne
  · exact absurd rfl hne
  · by_cases hpos : y = d.row ∧ x = d.col
    · exact ⟨hpos.1, hpos.2, hp⟩
    · exact absurd ((memRead_memWrite d d.row d.col y x _).trans (if_neg hpos)) hne

/-- Closing a row writes the entry of the row, its length, and no other. -/
theorem rowLen_of_closeRow {d : DecContext} {y : U16} (hne : rowLenRead (closeRow d) y ≠ rowLenRead d y) :
    y = d.row ∧ rowLenRead (closeRow d) y = some d.col := by
  obtain ⟨-, h⟩ | ⟨-, -, h⟩ | ⟨-, -, h⟩ := closeRow_moves d <;> rw [h] at hne ⊢
  · exact absurd rfl hne
  · exact absurd rfl hne
  · have hread := rowLenRead_rowLenWrite d d.row d.col y
    by_cases hy : y = d.row
    · exact ⟨hy, hread.trans (if_pos hy)⟩
    · exact absurd (hread.trans (if_neg hy)) hne

/-- Only `DEC_CHAR` in `ACTIVE` writes a cell. -/
theorem cell_of_move {i : Instr} {s : State} {d : DecContext} (h : DecMove s i d) {y x : U16}
    (hne : memRead d y x ≠ memRead s.dec y x) :
    y = s.dec.row ∧ x = s.dec.col ∧ s.dec.state = .active ∧ s.dec.pending = true ∧ ∃ cp, i = .decChar cp := by
  cases h with
  | stay _ | start _ | charRejected _ | brkRejected _ => exact absurd rfl hne
  | brk _ => exact (hne (memRead_congr (closeRow_grid _) y x)).elim
  | finish _ => exact (hne (memRead_congr ((finishBlock_grid _).trans (closeRow_grid _)) y x)).elim
  | finishRejected _ => exact (hne (memRead_congr (finishBlock_grid _) y x)).elim
  | @char cp hs =>
    obtain ⟨hy, hx, hp⟩ := cell_of_parseChar (d := predChar cp s.dec) hne
    exact ⟨hy, hx, hs, hp, cp, rfl⟩

/-- Only `DEC_BREAK` and `DEC_END` in `ACTIVE` write an entry of `ROWLEN`. -/
theorem rowLen_of_move {i : Instr} {s : State} {d : DecContext} (h : DecMove s i d) {y : U16}
    (hne : rowLenRead d y ≠ rowLenRead s.dec y) :
    y = s.dec.row ∧ s.dec.state = .active ∧ rowLenRead d y = some s.dec.col ∧ (i = .decBreak ∨ i = .decEnd) := by
  cases h with
  | stay _ | start _ | charRejected _ | brkRejected _ => exact absurd rfl hne
  | char _ => exact (hne (rowLenRead_congr (parseChar_rowLen _ _ _ _) y)).elim
  | finishRejected _ => exact (hne (rowLenRead_congr (finishBlock_rowLen _) y)).elim
  | brk hs =>
    obtain ⟨hy, hlen⟩ := rowLen_of_closeRow (d := predBreak s.dec) hne
    exact ⟨hy, hs, hlen, .inl rfl⟩
  | finish hs =>
    have hread := rowLenRead_congr (finishBlock_rowLen (closeRow (predLine s.dec))) y
    rw [hread] at hne ⊢
    obtain ⟨hy, hlen⟩ := rowLen_of_closeRow (d := predLine s.dec) hne
    exact ⟨hy, hs, hlen, .inr rfl⟩

/-- Settles O35: by what a command can make of the decoder context. -/
theorem storesAreWrittenOneEntryAtATime : Obligations.StoresAreWrittenOneEntryAtATime :=
  fun _ _ _ h => ⟨fun _ _ hne => cell_of_move (exec_decMove h) hne, fun _ hne => rowLen_of_move (exec_decMove h) hne⟩

end Sys2Proof.Machine

namespace Sys2Proof.Machine

open Sys2Proof.Spec

/-! ## A stored pixel (R32, R65, R89, R94) -/

theorem pix_toNat (r g b a : Byte) : (pix r g b a).toNat = pixN r.toNat g.toNat b.toNat a.toNat := by
  rw [pix, show (a ++ b ++ g ++ r : U32).toNat = _ from toNat_append (a ++ b ++ g) r, toNat_append, toNat_append, pixN]
  omega

theorem pix_inj {r g b a r' g' b' a' : Byte} :
    pix r g b a = pix r' g' b' a' ↔ r = r' ∧ g = g' ∧ b = b' ∧ a = a' := by
  simp only [← BitVec.toNat_inj, pix_toNat, pixN]
  have := r.isLt; have := g.isLt; have := b.isLt; have := r'.isLt; have := g'.isLt; have := b'.isLt
  omega

theorem pix_and_pix (r g b a r' g' b' a' : Byte) :
    pix r g b a &&& pix r' g' b' a' = pix (r &&& r') (g &&& g') (b &&& b') (a &&& a') := by
  rw [pix, pix, show (a ++ b ++ g ++ r : U32) &&& (a' ++ b' ++ g' ++ r') = _ from
    Laws.TableRow.append_and_append (a ++ b ++ g) (a' ++ b' ++ g') r r', Laws.TableRow.append_and_append,
    Laws.TableRow.append_and_append, pix]

/-- The mask of a stored pixel, channel by channel. -/
theorem storedPixel_pix_iff (r g b a : Byte) :
    storedPixel (pix r g b a) ↔ r &&& 0x87#8 = 0#8 ∧ g &&& 0x87#8 = 0#8 ∧ b &&& 0x87#8 = 0#8 ∧ a = 255#8 := by
  rw [storedPixel, show 0xFF878787#32 = pix 0x87#8 0x87#8 0x87#8 255#8 from rfl,
    show 0xFF000000#32 = pix 0#8 0#8 0#8 255#8 from rfl, pix_and_pix, pix_inj, Laws.TableRow.and_allOnes_byte]

/-- A dequantized channel has only bits 6:3 (R65). -/
theorem dequantize_and_mask : ∀ n : Nibble, dequantize n &&& 0x87#8 = 0#8 := by decide

/-- Every decoded cell is one that `DEC_CHAR` may store (R89). -/
theorem storedPixel_decodedCell (nr ng nb : Nibble) : storedPixel (decodedCell nr ng nb) :=
  (storedPixel_pix_iff _ _ _ _).2 ⟨dequantize_and_mask nr, dequantize_and_mask ng, dequantize_and_mask nb, rfl⟩

/-- A channel with only bits 6:3 is a multiple of 8 up to 120. -/
theorem channel_eq_mul_eight : ∀ v : Byte, v &&& 0x87#8 = 0#8 → ∃ q, v.toNat = 8 * q ∧ q < 16 := by
  intro v h
  have hdiv : ∀ v : Byte, v &&& 0x87#8 = 0#8 → v.toNat = 8 * (v.toNat / 8) ∧ v.toNat / 8 < 16 := by decide
  exact ⟨_, hdiv v h⟩

/-- A stored pixel is opaque, and its colours are multiples of 8 up to 120. -/
theorem storedPixel_toNat {v : U32} (h : storedPixel v) :
    ∃ r g b, v.toNat = pixN (8 * r) (8 * g) (8 * b) 255 ∧ r < 16 ∧ g < 16 ∧ b < 16 := by
  obtain ⟨r, g, b, a, rfl⟩ : ∃ r g b a, v = pix r g b a := ⟨_, _, _, _, (append_extract_bytes v).symm⟩
  obtain ⟨hr, hg, hb, rfl⟩ := (storedPixel_pix_iff r g b a).1 h
  obtain ⟨r', hr, hr'⟩ := channel_eq_mul_eight r hr
  obtain ⟨g', hg, hg'⟩ := channel_eq_mul_eight g hg
  obtain ⟨b', hb, hb'⟩ := channel_eq_mul_eight b hb
  exact ⟨r', g', b', by rw [pix_toNat, hr, hg, hb]; rfl, hr', hg', hb'⟩

/-- A cell that the invariant knows is a stored pixel. -/
theorem storedPixel_of_memRead {maxW maxH : U16} {d : DecContext} (h : DecContext.Inv maxW maxH d) {y x : U16} {v : U32}
    (hv : memRead d y x = some v) : storedPixel v :=
  (h.gridCells _ (Memory.mem_of_read hv)).2.2

/-- `GRID_RD` answers a pixel only inside an accepted result, and it is the word of the cell (R109). -/
theorem gridRd_of_pix {x y : U16} {s t : State} {v : U32} (h : exec (.gridRd x y) s = .next t)
    (hv : ⟨.pix, v⟩ ∈ newResponses s t) :
    s.dec.state = .done ∧ s.dec.status = .ok ∧ y < s.dec.h ∧ v = gridWord s.dec y x := by
  have not_raised {b : Nat} (hb : exec (.gridRd x y) s = .next (raised b s)) : False := by
    cases hb.symm.trans h
    simp [newResponses_raised] at hv
  by_cases hres : s.dec.state = .done ∧ s.dec.status = .ok
  · obtain ⟨hdone, hok⟩ := hres
    by_cases hout : s.dec.w ≤ x ∨ s.dec.h ≤ y
    · exact (not_raised (exec_gridRd_outside hdone hok hout)).elim
    · obtain ⟨hx, hy⟩ := not_or.1 hout
      cases (exec_gridRd_inside hdone hok (BitVec.not_le.1 hx) (BitVec.not_le.1 hy)).symm.trans h
      rw [newResponses_eq rfl, List.mem_singleton] at hv
      refine ⟨hdone, hok, BitVec.not_le.1 hy, (congrArg Response.data hv).trans ?_⟩
      exact (BitVec.ofNat_toNat 32 _).trans (BitVec.setWidth_eq _)
  · exact (not_raised (exec_gridRd_no_result x y hres)).elim

/-- Settles O29: what answers is an accepted result, whose row has a length, and up to it every cell a stored pixel. -/
theorem decodedPixelsAreOpaque : Obligations.DecodedPixelsAreOpaque := by
  intro x y s t v hinv hexec hv
  obtain ⟨hdone, hok, hy, rfl⟩ := gridRd_of_pix hexec hv
  obtain ⟨n, hn, -, -, hcells⟩ := accepted_row hinv.dec hdone hok hy
  refine ⟨n, hn, fun hx => ?_, gridWord_pad hn⟩
  obtain ⟨w, hw⟩ := hcells x hx
  rw [gridWord_stored hn hx hw]
  obtain ⟨r, g, b, hpix, hlt⟩ := storedPixel_toNat (storedPixel_of_memRead hinv.dec hw)
  refine ⟨hw, fun h0 => ?_, r, g, b, hpix, hlt⟩
  rw [h0, pixN] at hpix
  simp at hpix

/-! ## The invariant's part about the stores (R12, R17, R21, R22, R30) -/

/-- What the invariant says of the stores and of the position, whatever the state of the block. -/
structure DecContext.StoreInv (maxW maxH : U16) (d : DecContext) : Prop where
  gridWf : Memory.wf d.grid
  rowLenWf : Memory.wf d.rowLen
  gridCells : ∀ p ∈ d.grid, p.1 / 65536 < maxH.toNat ∧ p.1 % 65536 < maxW.toNat ∧ storedPixel p.2
  rowLenCells : ∀ p ∈ d.rowLen, p.1 < maxH.toNat
  colLe : d.col.toNat ≤ maxW.toNat
  rowLe : d.row.toNat ≤ maxH.toNat
  wmaxLe : d.wmax.toNat ≤ maxW.toNat
  rowLt : d.col ≠ 0#16 → d.row.toNat < maxH.toNat
  rows : ∀ y : U16, y < d.row → ∃ n, rowLenRead d y = some n ∧ 1 ≤ n.toNat ∧ n ≤ d.wmax
  widest : d.row ≠ 0#16 → ∃ y : U16, y < d.row ∧ rowLenRead d y = some d.wmax
  wmaxZero : d.row = 0#16 → d.wmax = 0#16
  cells : ∀ y n : U16, y < d.row → rowLenRead d y = some n → ∀ x : U16, x < n → ∃ v, memRead d y x = some v
  rowCells : ∀ x : U16, x < d.col → ∃ v, memRead d d.row x = some v

theorem one_le_toNat {x : U16} (h : x ≠ 0#16) : 1 ≤ x.toNat :=
  Nat.one_le_iff_ne_zero.2 fun h0 => h (BitVec.eq_of_toNat_eq h0)

section StoreInv

variable {maxW maxH : U16} {d d' : DecContext}

theorem DecContext.Inv.store (h : DecContext.Inv maxW maxH d) : d.StoreInv maxW maxH :=
  ⟨h.gridWf, h.rowLenWf, h.gridCells, h.rowLenCells, h.colLe, h.rowLe, h.wmaxLe, h.rowLt, h.rows, h.widest, h.wmaxZero,
    h.cells, h.rowCells⟩

/-- It speaks of the stores, the position and the greatest row length only. -/
theorem DecContext.StoreInv.congr (h : d.StoreInv maxW maxH) (hgrid : d'.grid = d.grid) (hrowLen : d'.rowLen = d.rowLen)
    (hcol : d'.col = d.col) (hrow : d'.row = d.row) (hwmax : d'.wmax = d.wmax) : d'.StoreInv maxW maxH := by
  cases d; cases d'; cases hgrid; cases hrowLen; cases hcol; cases hrow; cases hwmax
  exact ⟨h.gridWf, h.rowLenWf, h.gridCells, h.rowLenCells, h.colLe, h.rowLe, h.wmaxLe, h.rowLt, h.rows, h.widest,
    h.wmaxZero, h.cells, h.rowCells⟩

/-- Where no row is closed and none is in progress, it asks of the stores only that what they list may stand there. -/
theorem DecContext.storeInv_of_no_row (hcol : d.col = 0#16) (hrow : d.row = 0#16) (hwmax : d.wmax = 0#16)
    (hgrid : Memory.wf d.grid) (hrowLen : Memory.wf d.rowLen)
    (hcells : ∀ p ∈ d.grid, p.1 / 65536 < maxH.toNat ∧ p.1 % 65536 < maxW.toNat ∧ storedPixel p.2)
    (hlens : ∀ p ∈ d.rowLen, p.1 < maxH.toNat) : d.StoreInv maxW maxH where
  gridWf := hgrid
  rowLenWf := hrowLen
  gridCells := hcells
  rowLenCells := hlens
  colLe := hcol ▸ Nat.zero_le _
  rowLe := hrow ▸ Nat.zero_le _
  wmaxLe := hwmax ▸ Nat.zero_le _
  rowLt := fun h => absurd hcol h
  rows := fun y h => absurd (hrow ▸ h : y < 0#16) BitVec.not_lt_zero
  widest := fun h => absurd hrow h
  wmaxZero := fun _ => hwmax
  cells := fun y _ h => absurd (hrow ▸ h : y < 0#16) BitVec.not_lt_zero
  rowCells := fun x h => absurd (hcol ▸ h : x < 0#16) BitVec.not_lt_zero

/-- A new block has no row (R105). -/
theorem DecContext.StoreInv.openBlock (h : d.StoreInv maxW maxH) : (openBlock d).StoreInv maxW maxH :=
  storeInv_of_no_row rfl rfl rfl h.gridWf h.rowLenWf h.gridCells h.rowLenCells

theorem DecContext.storeInv_reset (maxW maxH : U16) : DecContext.reset.StoreInv maxW maxH :=
  storeInv_of_no_row rfl rfl rfl wf_grid_reset wf_rowLen_reset (fun _ hp => nomatch hp) fun _ hp => nomatch hp

/-- Below the successor of a coordinate that does not wrap are the coordinates below it and itself. -/
theorem lt_or_eq_of_lt_add_one {x y : U16} (h : x < y + 1#16) : x < y ∨ x = y := by
  bv_omega

/-- A pixel stored at the position, inside the store (R90). -/
theorem DecContext.StoreInv.pixel (h : d.StoreInv maxW maxH) (hcol : d.col < maxW) (hrow : d.row < maxH) {v : U32}
    (hv : storedPixel v) :
    ({ memWrite d.row d.col v d with col := d.col + 1#16, pending := false } : DecContext).StoreInv maxW maxH := by
  have hread (y x : U16) := memRead_memWrite d d.row d.col y x v
  exact {
    gridWf := wf_grid_memWrite h.gridWf _ _ _
    rowLenWf := h.rowLenWf
    gridCells := fun p hp => by
      obtain rfl | hp := Memory.mem_write hp
      · exact ⟨(cellAddr_div d.row d.col).symm ▸ hrow, (cellAddr_mod d.row d.col).symm ▸ hcol, hv⟩
      · exact h.gridCells p hp
    rowLenCells := h.rowLenCells
    colLe := by
      have := toNat_add_one hcol
      exact this.symm ▸ hcol
    rowLe := h.rowLe
    wmaxLe := h.wmaxLe
    rowLt := fun _ => hrow
    rows := h.rows
    widest := h.widest
    wmaxZero := h.wmaxZero
    cells := fun y n hy hn x hx => by
      have hne : ¬(y = d.row ∧ x = d.col) := fun hpos => absurd hy (by rw [hpos.1]; exact BitVec.lt_irrefl _)
      obtain ⟨w, hw⟩ := h.cells y n hy hn x hx
      exact ⟨w, ((hread y x).trans (if_neg hne)).trans hw⟩
    rowCells := fun x hx => by
      obtain hx | rfl := lt_or_eq_of_lt_add_one hx
      · obtain ⟨w, hw⟩ := h.rowCells x hx
        have hne : ¬(d.row = d.row ∧ x = d.col) := fun hpos => absurd hx (by rw [hpos.2]; exact BitVec.lt_irrefl _)
        exact ⟨w, ((hread d.row x).trans (if_neg hne)).trans hw⟩
      · exact ⟨v, (hread d.row d.col).trans (if_pos ⟨rfl, rfl⟩)⟩ }

/-- A row of at least one pixel counted (R92). -/
theorem DecContext.StoreInv.countRow (h : d.StoreInv maxW maxH) (hc : d.col ≠ 0#16) :
    ({ rowLenWrite d.row d.col d with
        wmax := if d.wmax ≤ d.col then d.col else d.wmax, row := d.row + 1#16, col := 0#16 } :
      DecContext).StoreInv maxW maxH := by
  have hrow : d.row < maxH := h.rowLt hc
  have hrow1 : (d.row + 1#16).toNat = d.row.toNat + 1 := toNat_add_one hrow
  have hmax : (if d.wmax ≤ d.col then d.col else d.wmax).toNat = max d.wmax.toNat d.col.toNat := wmax_toNat _ _
  have hread_same : rowLenRead (rowLenWrite d.row d.col d) d.row = some d.col := by simp [rowLenRead_rowLenWrite]
  have hread_other {y : U16} (hy : y < d.row) : rowLenRead (rowLenWrite d.row d.col d) y = rowLenRead d y := by
    rw [rowLenRead_rowLenWrite, if_neg (by rintro rfl; exact BitVec.lt_irrefl _ hy)]
  exact {
    gridWf := h.gridWf
    rowLenWf := wf_rowLen_rowLenWrite h.rowLenWf _ _
    gridCells := h.gridCells
    rowLenCells := fun p hp => by
      obtain rfl | hp := Memory.mem_write hp
      · exact hrow
      · exact h.rowLenCells p hp
    colLe := Nat.zero_le _
    rowLe := hrow1.symm ▸ hrow
    wmaxLe := hmax.symm ▸ max_le h.wmaxLe h.colLe
    rowLt := fun h0 => absurd rfl h0
    rows := fun y hy => by
      obtain hy | rfl := lt_or_eq_of_lt_add_one hy
      · obtain ⟨n, hn, hpos, hle⟩ := h.rows y hy
        exact ⟨n, (hread_other hy).trans hn, hpos, BitVec.le_def.2 (hmax.symm ▸ le_max_of_le_left hle)⟩
      · exact ⟨d.col, hread_same, one_le_toNat hc, BitVec.le_def.2 (hmax.symm ▸ le_max_right _ _)⟩
    widest := fun _ => by
      by_cases hle : d.wmax ≤ d.col
      · exact ⟨d.row, BitVec.lt_def.2 (hrow1.symm ▸ Nat.lt_succ_self _), hread_same.trans (by rw [if_pos hle])⟩
      · have hne : d.row ≠ 0#16 := fun h0 => hle (by rw [h.wmaxZero h0]; exact Nat.zero_le _)
        obtain ⟨y, hy, hread⟩ := h.widest hne
        exact ⟨y, BitVec.lt_def.2 (hrow1.symm ▸ Nat.lt_succ_of_lt hy),
          (hread_other hy).trans (by rw [hread, if_neg hle])⟩
    wmaxZero := fun h0 => by
      have h0 : d.row + 1#16 = 0#16 := h0
      simp [h0] at hrow1
    cells := fun y n hy hn x hx => by
      obtain hy | rfl := lt_or_eq_of_lt_add_one hy
      · exact h.cells y n hy ((hread_other hy).symm.trans hn) x hx
      · obtain rfl : d.col = n := Option.some.inj (hread_same.symm.trans hn)
        exact h.rowCells x hx
    rowCells := fun x hx => absurd hx BitVec.not_lt_zero }

/-! ## The invariant in each state of the block (R15, R18, R19, R20) -/

theorem DecContext.StoreInv.inv_of_active (h : d.StoreInv maxW maxH) (hs : d.state = .active)
    (hres : d.status = .ok ∧ d.w = 0#16 ∧ d.h = 0#16 ∧ d.pred = false) : DecContext.Inv maxW maxH d :=
  { h with
    idle := fun hs' => nomatch hs.symm.trans hs'
    active := fun _ => hres
    reject := fun hs' => nomatch hs.symm.trans hs'
    doneOk := fun hs' => nomatch hs.symm.trans hs'
    doneErr := fun hs' => nomatch hs.symm.trans hs'
    donePred := fun hs' => nomatch hs.symm.trans hs' }

theorem DecContext.StoreInv.inv_of_reject (h : d.StoreInv maxW maxH) (hs : d.state = .reject)
    (hres : (d.status = .invalidGlyph ∨ d.status = .invalidRowLength ∨ d.status = .gridOverflow) ∧
      d.w = 0#16 ∧ d.h = 0#16 ∧ d.pred = false) : DecContext.Inv maxW maxH d :=
  { h with
    idle := fun hs' => nomatch hs.symm.trans hs'
    active := fun hs' => nomatch hs.symm.trans hs'
    reject := fun _ => hres
    doneOk := fun hs' => nomatch hs.symm.trans hs'
    doneErr := fun hs' => nomatch hs.symm.trans hs'
    donePred := fun hs' => nomatch hs.symm.trans hs' }

theorem DecContext.StoreInv.inv_of_done (h : d.StoreInv maxW maxH) (hs : d.state = .done)
    (hok : d.status = .ok → d.w = d.wmax ∧ d.h = d.row ∧ d.row ≠ 0#16 ∧ d.col = 0#16 ∧ d.pending = false)
    (herr : d.status ≠ .ok → d.w = 0#16 ∧ d.h = 0#16) (hpred : d.pred = !d.prBad) : DecContext.Inv maxW maxH d :=
  { h with
    idle := fun hs' => nomatch hs.symm.trans hs'
    active := fun hs' => nomatch hs.symm.trans hs'
    reject := fun hs' => nomatch hs.symm.trans hs'
    doneOk := fun _ => hok
    doneErr := fun _ => herr
    donePred := fun _ => hpred }

/-! ## Every command keeps the invariant of the decoder -/

/-- The flags of the predicate are free while the block is open (R20, R93). -/
theorem inv_track (h : DecContext.Inv maxW maxH d) (hopen : d.Open) (cur bad : Bool) :
    DecContext.Inv maxW maxH { d with prCur := cur, prBad := bad } := by
  have hstore : ({ d with prCur := cur, prBad := bad } : DecContext).StoreInv maxW maxH :=
    h.store.congr rfl rfl rfl rfl rfl
  obtain hs | hs := hopen
  · exact hstore.inv_of_active hs (h.active hs)
  · exact hstore.inv_of_reject hs (h.reject hs)

/-- A decode error of a block being parsed (R134). -/
theorem inv_reject (h : DecContext.Inv maxW maxH d) (hs : d.state = .active) {e : DecStatus}
    (he : e = .invalidGlyph ∨ e = .invalidRowLength ∨ e = .gridOverflow) : DecContext.Inv maxW maxH (reject e d) :=
  DecContext.StoreInv.inv_of_reject (h.store.congr rfl rfl rfl rfl rfl) rfl ⟨he, (h.active hs).2⟩

theorem inv_parseChar (h : DecContext.Inv maxW maxH d) (hs : d.state = .active) (cp : U32) :
    DecContext.Inv maxW maxH (parseChar maxW maxH cp d) := by
  obtain ⟨e, he, heq⟩ | ⟨n1, n2, heq⟩ | ⟨n1, -, hcol, hrow, heq⟩ := parseChar_moves maxW maxH cp d <;> rw [heq]
  · exact inv_reject h hs (he.imp_right .inr)
  · exact DecContext.StoreInv.inv_of_active (h.store.congr rfl rfl rfl rfl rfl) hs (h.active hs)
  · exact (h.store.pixel hcol hrow (storedPixel_decodedCell _ _ _)).inv_of_active hs (h.active hs)

theorem inv_closeRow (h : DecContext.Inv maxW maxH d) (hs : d.state = .active) :
    DecContext.Inv maxW maxH (closeRow d) := by
  obtain ⟨-, heq⟩ | ⟨-, -, heq⟩ | ⟨-, hc, heq⟩ := closeRow_moves d <;> rw [heq]
  · exact inv_reject h hs (.inr (.inl rfl))
  · exact h
  · exact (h.store.countRow hc).inv_of_active hs (h.active hs)

/-- The finalisation of a rejected block, or of a block whose last row is closed (R107). -/
theorem inv_finishBlock (h : DecContext.Inv maxW maxH d)
    (hclosed : (d.state = .active ∧ d.col = 0#16 ∧ d.pending = false) ∨ d.state = .reject) :
    DecContext.Inv maxW maxH (finishBlock d) := by
  obtain ⟨hs, hcol, hp⟩ | hs := hclosed
  · by_cases hr : d.row = 0#16
    · rw [finishBlock_empty hs hr]
      exact DecContext.StoreInv.inv_of_done (h.store.congr rfl rfl rfl rfl rfl) rfl nofun (fun _ => ⟨rfl, rfl⟩) rfl
    · rw [finishBlock_image hs hr]
      exact DecContext.StoreInv.inv_of_done (h.store.congr rfl rfl rfl rfl rfl) rfl (fun _ => ⟨rfl, rfl, hr, hcol, hp⟩)
        (fun hne => absurd (h.active hs).1 hne) rfl
  · obtain ⟨herr, -⟩ := h.reject hs
    rw [finishBlock_reject hs]
    refine DecContext.StoreInv.inv_of_done (h.store.congr rfl rfl rfl rfl rfl) rfl (fun hok => ?_)
      (fun _ => ⟨rfl, rfl⟩) rfl
    have hok : d.status = .ok := hok
    simp [hok] at herr

end StoreInv

/-! ## The invariant at reset (R26, R150) -/

theorem encContext_reset_inv : EncContext.Inv EncContext.reset := ⟨by decide, fun _ => ⟨rfl, rfl⟩⟩

/-- The decoder context at reset has no row, and its stores list nothing. -/
theorem decContext_reset_inv (maxW maxH : U16) : DecContext.Inv maxW maxH DecContext.reset :=
  { DecContext.storeInv_reset maxW maxH with
    idle := fun _ => rfl
    active := by decide
    reject := by decide
    doneOk := by decide
    doneErr := by decide
    donePred := by decide }

/-- An open capacity is one that R6 allows. -/
theorem one_le_openCapacity (n : Fin 65535) : 1 ≤ (BitVec.ofNat 16 (n.val + 1)).toNat := by
  have := n.isLt
  rw [BitVec.toNat_ofNat]
  omega

/-- Settles O38: both contexts at reset meet the invariant over any capacity, and the open one is at least 1. -/
theorem resetMeetsTheInvariant : Obligations.ResetMeetsTheInvariant :=
  ⟨⟨one_le_openCapacity _, one_le_openCapacity _, encContext_reset_inv, decContext_reset_inv _ _⟩, rfl, rfl, .inl rfl⟩

/-- Settles O40: a reset keeps the capacity and puts both contexts back to their values at reset. -/
theorem hostResetKeepsTheInvariant : Obligations.HostResetKeepsTheInvariant :=
  fun _ h => ⟨h.maxWPos, h.maxHPos, encContext_reset_inv, decContext_reset_inv _ _⟩

/-! ## Every step keeps the invariant -/

theorem inv_decMove {i : Instr} {s : State} {d : DecContext} (hinv : DecContext.Inv s.maxW s.maxH s.dec)
    (h : DecMove s i d) : DecContext.Inv s.maxW s.maxH d := by
  cases h with
  | stay _ => exact hinv
  | start _ => exact hinv.store.openBlock.inv_of_active rfl ⟨rfl, rfl, rfl, rfl⟩
  | @char cp hs =>
    have htrack : DecContext.Inv s.maxW s.maxH (predChar cp s.dec) := inv_track hinv (.inl hs) _ _
    exact inv_parseChar htrack hs cp
  | charRejected hs | brkRejected hs => exact inv_track hinv (.inr hs) _ _
  | brk hs => exact inv_closeRow (inv_track hinv (.inl hs) _ _) hs
  | finish hs =>
    have hline : DecContext.Inv s.maxW s.maxH (predLine s.dec) := inv_track hinv (.inl hs) _ _
    exact inv_finishBlock (inv_closeRow hline hs) ((closeRow_cases (d := predLine s.dec) hs).imp_right (·.1))
  | finishRejected hs => exact inv_finishBlock (d := predLine s.dec) (inv_track hinv (.inr hs) _ _) (.inr hs)

/-- The scan keeps the position inside the grid until it is complete (R13, R103). -/
theorem inv_scanned {e : EncContext} (hinv : EncContext.Inv e) (hs : e.state = .active) : EncContext.Inv e.scanned := by
  obtain ⟨hw, hh, -, -⟩ := hinv.active hs
  obtain ⟨hrow, hylt, hstate, hx, hy⟩ | ⟨hrow, hylt, hstate, hx, hy⟩ := EncContext.scanned_cases hs hinv
  · refine ⟨fun _ => ?_, fun hidle => absurd hidle hstate⟩
    rw [EncContext.scanned_w, EncContext.scanned_h]
    exact ⟨hw, hh, by omega, by omega⟩
  · refine ⟨fun hact => ?_, fun hidle => ?_⟩
    · have hmore : e.y.toNat + 1 ≠ e.h.toNat := fun hlast => nomatch hact.symm.trans (hstate.2 hlast)
      rw [EncContext.scanned_w, EncContext.scanned_h]
      exact ⟨hw, hh, by omega, by omega⟩
    · have harea : ¬(e.w = 0#16 ∨ e.h = 0#16) := by
        rintro (h0 | h0) <;> simp [h0] at hw hh
      have hlast := hstate.1 hidle
      rw [EncContext.scanned_w, EncContext.scanned_h, if_neg harea]
      exact ⟨BitVec.eq_of_toNat_eq hx, BitVec.eq_of_toNat_eq (hy.trans hlast)⟩

theorem inv_encMove {i : Instr} {s : State} {e : EncContext} (hinv : EncContext.Inv s.enc) (h : EncMove s i e) :
    EncContext.Inv e := by
  cases h with
  | stay _ => exact hinv
  | zeroArea _ hz => exact ⟨nofun, fun _ => ⟨rfl, (if_pos hz).symm⟩⟩
  | grid _ hw hh => exact ⟨fun _ => ⟨one_le_toNat hw, one_le_toNat hh, one_le_toNat hw, one_le_toNat hh⟩, nofun⟩
  | pixel hs => exact inv_scanned hinv hs

/-- Settles O39: a step waits, takes a fault, which leaves both contexts alone, or moves each context by a command. -/
theorem stepsKeepTheInvariant : Obligations.StepsKeepTheInvariant := by
  intro s t hinv h
  obtain ⟨-, rfl⟩ | ⟨c, rest, -, ⟨i, -, hexec⟩ | ⟨-, rfl⟩⟩ := step_cases h
  · exact hinv
  · have hw : t.maxW = s.maxW := exec_maxW (s := { s with commands := rest }) hexec
    have hh : t.maxH = s.maxH := exec_maxH (s := { s with commands := rest }) hexec
    exact {
      maxWPos := hw ▸ hinv.maxWPos
      maxHPos := hh ▸ hinv.maxHPos
      enc := inv_encMove (s := { s with commands := rest }) hinv.enc (exec_encMove hexec)
      dec := by
        rw [hw, hh]
        exact inv_decMove (s := { s with commands := rest }) hinv.dec (exec_decMove hexec) }
  · exact ⟨hinv.maxWPos, hinv.maxHPos, hinv.enc, hinv.dec⟩

end Sys2Proof.Machine

namespace Sys2Proof.Machine

open Sys2Proof.Spec

/-! ## The symbols of a pixel and of a grid (R51, R85, R86) -/

/-- The two glyphs of a pixel (R86). -/
def pixelSymbols (p : Pixel) : List OutSymbol :=
  [.glyph (BitVec.ofNat 16 (glyphA p)), .glyph (BitVec.ofNat 16 (glyphB p))]

/-- The row marker, before the first pixel of a row (R85). -/
def markAt (x : U16) : List OutSymbol := if x = 0#16 then [.mark] else []

/-- The end of the text, when the scan has left `ACTIVE` (R103). -/
def endAt (st : EncState) : List OutSymbol := if st = .idle then [.eot] else []

/-- The symbols of a whole grid (R101). -/
def imageSymbols (w : Nat) (rows : List (List Pixel)) : List OutSymbol :=
  (if w = 0 then [] else rows.flatMap rowSymbols) ++ [.eot]

theorem rowSymbols_eq (row : List Pixel) : rowSymbols row = .mark :: row.flatMap pixelSymbols := rfl

/-- The glyphs that the model computes are the source's. -/
theorem encodePixel_eq (p : Pixel) :
    encodePixel p.r p.g p.b p.a = (BitVec.ofNat 16 (glyphA p), BitVec.ofNat 16 (glyphB p)) := by
  rw [← encodePixel_fst_toNat p.r p.g p.b p.a, ← encodePixel_snd_toNat p.r p.g p.b p.a, BitVec.ofNat_toNat,
    BitVec.ofNat_toNat, BitVec.setWidth_eq, BitVec.setWidth_eq]

/-- The responses of an accepted pixel stand for its marker, its glyphs and the end of the text (R87). -/
theorem pixelResponses_eq (e : EncContext) (p : Pixel) :
    e.pixelResponses p.r p.g p.b p.a =
      (markAt e.x ++ pixelSymbols p ++ endAt e.scanned.state).map symbolResponse := by
  rw [EncContext.pixelResponses, encodePixel_eq, markAt, endAt]
  split <;> split <;> rfl

/-! ## The pixels of a grid (R87, R103) -/

/-- The state after the encoder has moved to `e` and emitted `syms`. -/
def encoded (e : EncContext) (syms : List OutSymbol) (s : State) : State :=
  { s with enc := e, responses := s.responses ++ syms.map symbolResponse }

theorem encoded_enc (e : EncContext) (syms : List OutSymbol) (s : State) : (encoded e syms s).enc = e := rfl

theorem encoded_encoded (e e' : EncContext) (syms syms' : List OutSymbol) (s : State) :
    encoded e' syms' (encoded e syms s) = encoded e' (syms ++ syms') s := by
  simp only [encoded, List.map_append, List.append_assoc]

theorem exec_pixelCommand (p : Pixel) {s : State} (h : s.enc.state = .active) :
    exec (pixelCommand p) s =
      .next (encoded s.enc.scanned (markAt s.enc.x ++ pixelSymbols p ++ endAt s.enc.scanned.state) s) := by
  rw [encoded, ← pixelResponses_eq]
  exact execEncPix_active _ _ _ _ h

section Scan

variable {w h x y : U16}

theorem scanned_in_row (hx : x.toNat + 1 < w.toNat) :
    EncContext.scanned ⟨.active, w, h, x, y⟩ = ⟨.active, w, h, x + 1#16, y⟩ := if_pos hx

/-- The encoder after the last pixel of row `y` (R103). -/
def EncContext.nextRow (w h y : U16) : EncContext := ⟨if y + 1#16 = h then .idle else .active, w, h, 0#16, y + 1#16⟩

theorem scanned_row_end (hx : x.toNat + 1 = w.toNat) :
    EncContext.scanned ⟨.active, w, h, x, y⟩ = .nextRow w h y :=
  if_neg (show ¬x.toNat + 1 < w.toNat by omega)

/-- The rest of a row, from its pixel `x` on: its marker if it has just begun, its glyphs, and the end of the text if no
row follows. -/
theorem runInstrs_row {ps : List Pixel} (hne : ps ≠ []) (hlen : x.toNat + ps.length = w.toNat) {s : State}
    (hs : s.enc = ⟨.active, w, h, x, y⟩) :
    runInstrs (ps.map pixelCommand) s = .next
      (encoded (.nextRow w h y) (markAt x ++ ps.flatMap pixelSymbols ++ endAt (EncContext.nextRow w h y).state) s) := by
  induction ps generalizing s x with
  | nil => exact absurd rfl hne
  | cons p ps ih =>
    have hexec := exec_pixelCommand p (s := s) (by rw [hs])
    rw [hs] at hexec
    cases ps with
    | nil =>
      rw [scanned_row_end hlen] at hexec
      rw [List.map_singleton, runInstrs_exec [] hexec, List.flatMap_singleton]
      rfl
    | cons q ps =>
      rw [List.length_cons] at hlen
      have hx : x.toNat + 1 < w.toNat := by rw [List.length_cons] at hlen; omega
      have hx1 : (x + 1#16).toNat = x.toNat + 1 := toNat_add_one (BitVec.lt_def.2 (Nat.lt_of_succ_lt hx))
      have hmark : markAt (x + 1#16) = [] := if_neg fun h0 => by simp [h0] at hx1
      rw [scanned_in_row hx] at hexec
      rw [List.map_cons, runInstrs_exec _ hexec, ih (by simp) (by omega) (encoded_enc _ _ _), encoded_encoded, hmark]
      simp [endAt]

/-- The rows of a grid from row `y` on: all their symbols, and the end of the text. -/
theorem runInstrs_rows {rows : List (List Pixel)} (hne : rows ≠ []) (hw : 1 ≤ w.toNat)
    (hlen : ∀ row ∈ rows, row.length = w.toNat) (hrows : y.toNat + rows.length = h.toNat) {s : State}
    (hs : s.enc = ⟨.active, w, h, 0#16, y⟩) :
    runInstrs (rows.flatten.map pixelCommand) s = .next
      (encoded ⟨.idle, w, h, 0#16, h⟩ (rows.flatMap rowSymbols ++ [.eot]) s) := by
  induction rows generalizing s y with
  | nil => exact absurd rfl hne
  | cons row rows ih =>
    have hrowlen : row.length = w.toNat := hlen row List.mem_cons_self
    have hy1 : (y + 1#16).toNat = y.toNat + 1 := by
      refine toNat_add_one (b := h) (BitVec.lt_def.2 ?_)
      rw [List.length_cons] at hrows
      omega
    have hrow := runInstrs_row (ps := row) (x := 0#16) (List.ne_nil_of_length_pos (by omega))
      (by simpa using hrowlen) hs
    rw [List.flatten_cons, List.map_append, runInstrs_append _ _ hrow, List.flatMap_cons, rowSymbols_eq]
    cases rows with
    | nil =>
      have hlast : y + 1#16 = h := BitVec.eq_of_toNat_eq (by simpa [hy1] using hrows)
      simp [EncContext.nextRow, hlast, endAt, markAt, runInstrs, runWords]
    | cons row' rows =>
      rw [List.length_cons] at hrows
      have hmore : y + 1#16 ≠ h := fun h0 => by
        rw [h0] at hy1
        rw [List.length_cons] at hrows
        omega
      have hnext : EncContext.nextRow w h y = ⟨.active, w, h, 0#16, y + 1#16⟩ := by
        rw [EncContext.nextRow, if_neg hmore]
      rw [ih (by simp) (fun r hr => hlen r (List.mem_cons_of_mem _ hr)) (by omega) hnext, encoded_encoded, hnext]
      simp [endAt, markAt]

end Scan

/-! ## `ENCODE_GRID` (R101, R110) -/

theorem runInstrs_encodeGrid {w : Nat} {rows : List (List Pixel)} (hw : w ≤ 65535) (hh : rows.length ≤ 65535)
    (hlen : ∀ row ∈ rows, row.length = w) {s : State} (hs : s.EncodeReady) :
    ∃ e, e.state = .idle ∧ runInstrs (encodeGrid w rows) s = .next (encoded e (imageSymbols w rows) s) := by
  have hw' : (BitVec.ofNat 16 w).toNat = w := by rw [BitVec.toNat_ofNat]; omega
  have hh' : (BitVec.ofNat 16 rows.length).toNat = rows.length := by rw [BitVec.toNat_ofNat]; omega
  by_cases hz : w = 0 ∨ rows = []
  · have hflat : rows.flatten = [] := by
      obtain rfl | rfl := hz
      · exact List.flatten_eq_nil_iff.2 fun row hrow => List.eq_nil_of_length_eq_zero (hlen row hrow)
      · rfl
    have himage : imageSymbols w rows = [.eot] := by obtain rfl | rfl := hz <;> simp [imageSymbols]
    have hexec := exec_encStart_zero_area (w := BitVec.ofNat 16 w) (h := BitVec.ofNat 16 rows.length) hs
      (by obtain rfl | rfl := hz <;> simp)
    rw [encodeGrid, hflat, List.map_nil, runInstrs_exec [] hexec, himage]
    exact ⟨_, rfl, rfl⟩
  · obtain ⟨hw0, hrows⟩ := not_or.1 hz
    have hlenpos : 0 < rows.length := List.length_pos_iff.2 hrows
    have hexec := exec_encStart_grid (w := BitVec.ofNat 16 w) (h := BitVec.ofNat 16 rows.length) hs
      (fun h0 => by simp [h0] at hw'; omega) (fun h0 => by simp [h0] at hh'; omega)
    rw [encodeGrid, runInstrs_exec _ hexec, imageSymbols, if_neg hw0]
    refine ⟨⟨.idle, BitVec.ofNat 16 w, BitVec.ofNat 16 rows.length, 0#16, BitVec.ofNat 16 rows.length⟩, rfl, ?_⟩
    exact runInstrs_rows (y := 0#16) hrows (by omega) (by rwa [hw']) (by simpa using hh'.symm) rfl

/-! ## The text of a grid (R51) -/

theorem outSymbol_symbolResponse (x : OutSymbol) : outSymbol (symbolResponse x) = some x := by
  cases x with
  | mark | eot => rfl
  | glyph cp =>
    have hcp : (cp.setWidth 32).extractLsb' 0 16 = cp := by ext i hi; simp [hi, show i < 32 by omega]
    exact congrArg (fun c => some (OutSymbol.glyph c)) hcp

theorem outSymbols_map_symbolResponse (syms : List OutSymbol) : outSymbols (syms.map symbolResponse) = syms := by
  rw [outSymbols, List.filterMap_map, show outSymbol ∘ symbolResponse = some from funext outSymbol_symbolResponse,
    List.filterMap_some]

theorem newResponses_encoded (e : EncContext) (syms : List OutSymbol) (s : State) :
    newResponses s (encoded e syms s) = syms.map symbolResponse := newResponses_eq rfl

/-- The text of a pixel: its two glyphs as code points. -/
def pixelText (p : Pixel) : List U32 := [BitVec.ofNat 32 (glyphA p), BitVec.ofNat 32 (glyphB p)]

/-- The glyphs of a pixel fit the 16 bits of a symbol. -/
theorem glyph_lt (p : Pixel) : glyphA p < 65536 ∧ glyphB p < 65536 := by
  rw [← encodePixel_fst_toNat p.r p.g p.b p.a, ← encodePixel_snd_toNat p.r p.g p.b p.a]
  exact ⟨BitVec.isLt _, BitVec.isLt _⟩

theorem serialize_append (marker : List U32) (a b : List OutSymbol) :
    serialize marker (a ++ b) = serialize marker a ++ serialize marker b := List.flatMap_append

theorem serialize_pixelSymbols (marker : List U32) (p : Pixel) : serialize marker (pixelSymbols p) = pixelText p := by
  have hwide {n : Nat} (hn : n < 65536) : (BitVec.ofNat 16 n).setWidth 32 = BitVec.ofNat 32 n :=
    setWidth_eq_ofNat (by rw [BitVec.toNat_ofNat]; omega)
  obtain ⟨hA, hB⟩ := glyph_lt p
  simp [serialize, symbolText, pixelSymbols, pixelText, hwide hA, hwide hB]

theorem serialize_rowSymbols (marker : List U32) (row : List Pixel) :
    serialize marker (rowSymbols row) = marker ++ row.flatMap pixelText := by
  rw [rowSymbols_eq, serialize, List.flatMap_cons, List.flatMap_assoc]
  exact congrArg (fun f => marker ++ row.flatMap f) (funext (serialize_pixelSymbols marker))

theorem serialize_imageSymbols (marker : List U32) (w : Nat) (rows : List (List Pixel)) :
    serialize marker (imageSymbols w rows) =
      if w = 0 then [] else rows.flatMap fun row => marker ++ row.flatMap pixelText := by
  rw [imageSymbols, serialize_append, show serialize marker [.eot] = [] from rfl, List.append_nil]
  split
  · rfl
  · rw [serialize, List.flatMap_assoc]
    exact congrArg rows.flatMap (funext (serialize_rowSymbols marker))

/-- Settles O23: the run emits the symbols of the image, pixel by pixel and row by row, and changes nothing but the
encoder and the response stream. -/
theorem encodeGridEmitsTheTextImage : Obligations.EncodeGridEmitsTheTextImage := by
  intro w rows s hs hw hh hlen
  obtain ⟨e, he, hrun⟩ := runInstrs_encodeGrid hw hh hlen hs
  refine ⟨_, hrun, he, rfl, rfl, newResponses_encoded e _ s, fun marker => ?_⟩
  rw [newResponses_encoded, outSymbols_map_symbolResponse, serialize_imageSymbols]
  rfl

end Sys2Proof.Machine

namespace Sys2Proof.Machine

open Sys2Proof.Spec

/-! ## A block as a function of its symbols (R90, R91, R107, R111) -/

/-- The end of a line, and of its row while the block is being parsed (R91, R107). -/
def DecContext.lineEnd (d : DecContext) : DecContext :=
  if d.state = .active then closeRow (predLine d) else predLine d

/-- A line starts without a character (R93). -/
def DecContext.newLine (d : DecContext) : DecContext := { d with prCur := false }

/-- One symbol of an open block, in `ACTIVE` or in `REJECT` (R90, R91). -/
def DecContext.symbol (maxW maxH : U16) (d : DecContext) : InSymbol → DecContext
  | .char cp => if d.state = .active then parseChar maxW maxH cp (predChar cp d) else predChar cp d
  | .brk => d.lineEnd.newLine

/-- The symbols of an open block, in order. -/
def DecContext.symbols (maxW maxH : U16) (d : DecContext) (syms : List InSymbol) : DecContext :=
  syms.foldl (DecContext.symbol maxW maxH) d

theorem DecContext.symbols_cons (maxW maxH : U16) (d : DecContext) (x : InSymbol) (syms : List InSymbol) :
    d.symbols maxW maxH (x :: syms) = (d.symbol maxW maxH x).symbols maxW maxH syms := rfl

theorem DecContext.symbols_append (maxW maxH : U16) (d : DecContext) (syms syms' : List InSymbol) :
    d.symbols maxW maxH (syms ++ syms') = (d.symbols maxW maxH syms).symbols maxW maxH syms' := List.foldl_append

/-- Closing a row does not look at the predicate of the line. -/
theorem closeRow_newLine (d : DecContext) : (closeRow d).newLine = closeRow d.newLine := by
  have hpred : d.newLine.pending = d.pending := rfl
  cases hp : d.pending with
  | true => rw [closeRow_odd hp, closeRow_odd (hpred.trans hp)]; rfl
  | false =>
    by_cases hc : d.col = 0#16
    · rw [closeRow_empty hp hc, closeRow_empty (hpred.trans hp) hc]
    · rw [closeRow_counted hp hc, closeRow_counted (d := d.newLine) hp hc]; rfl

theorem exec_symbolCommand (x : InSymbol) {s : State} (h : s.dec.Open) :
    exec (symbolCommand x) s = .next { s with dec := s.dec.symbol s.maxW s.maxH x } := by
  cases x with
  | char cp =>
    obtain h | h := h
    · simp [symbolCommand, exec_decChar_active cp h, DecContext.symbol, h]
    · simp [symbolCommand, exec_decChar_reject cp h, DecContext.symbol, h]
  | brk =>
    obtain h | h := h
    · simp only [symbolCommand, exec_decBreak_active h, DecContext.symbol, DecContext.lineEnd, h, if_true,
        closeRow_newLine]
      rfl
    · simp only [symbolCommand, exec_decBreak_reject h, DecContext.symbol, DecContext.lineEnd, h]
      rfl

theorem DecContext.lineEnd_active {d : DecContext} (h : d.state = .active) : d.lineEnd = closeRow (predLine d) :=
  if_pos h

theorem DecContext.lineEnd_reject {d : DecContext} (h : d.state = .reject) : d.lineEnd = predLine d :=
  if_neg (by rw [h]; decide)

theorem DecContext.lineEnd_open {d : DecContext} (h : d.Open) : d.lineEnd.Open := by
  obtain h | h := h
  · rw [lineEnd_active h]
    exact (closeRow_cases (d := predLine d) h).imp (·.1) (·.1)
  · rw [lineEnd_reject h]
    exact .inr h

theorem DecContext.symbol_open (maxW maxH : U16) {d : DecContext} (h : d.Open) (x : InSymbol) :
    (d.symbol maxW maxH x).Open := by
  cases x with
  | brk => exact lineEnd_open h
  | char cp =>
    rw [symbol]
    split
    · exact parseChar_open (d := predChar cp d) ‹_›
    · exact h

theorem DecContext.symbols_open (maxW maxH : U16) {d : DecContext} (h : d.Open) (syms : List InSymbol) :
    (d.symbols maxW maxH syms).Open := by
  induction syms generalizing d with
  | nil => exact h
  | cons x syms ih => exact ih (symbol_open maxW maxH h x)

theorem runInstrs_symbols (syms : List InSymbol) (is : List Instr) {s : State} (h : s.dec.Open) :
    runInstrs (syms.map symbolCommand ++ is) s =
      runInstrs is { s with dec := s.dec.symbols s.maxW s.maxH syms } := by
  induction syms generalizing s with
  | nil => rfl
  | cons x syms ih =>
    rw [List.map_cons, List.cons_append, runInstrs_exec _ (exec_symbolCommand x h)]
    exact ih (s := { s with dec := s.dec.symbol s.maxW s.maxH x }) (DecContext.symbol_open _ _ h x)

theorem exec_decEnd_open {s : State} (h : s.dec.Open) : exec .decEnd s = .next (endBlock s.dec.lineEnd s) := by
  obtain h | h := h
  · rw [exec_decEnd_active h, DecContext.lineEnd_active h]
  · rw [exec_decEnd_reject h, DecContext.lineEnd_reject h]

/-- The decoder context after a whole block, launched from `d` (R111). -/
def DecContext.block (maxW maxH : U16) (d : DecContext) (syms : List InSymbol) : DecContext :=
  finishBlock ((openBlock d).symbols maxW maxH syms).lineEnd

/-- `DECODE_SYMS` computes the block and reports it (R107, R111). -/
theorem runInstrs_decodeSyms_block (syms : List InSymbol) {s : State} (h : s.DecodeReady) :
    runInstrs (decodeSyms syms) s = .next (emit .decDone (decDoneData (s.dec.block s.maxW s.maxH syms))
      { s with dec := s.dec.block s.maxW s.maxH syms }) := by
  have hopen : (openBlock s.dec).Open := .inl rfl
  rw [decodeSyms, runInstrs_exec _ (exec_decStart_ready h), runInstrs_symbols syms [.decEnd] hopen]
  exact runInstrs_exec [] (exec_decEnd_open (DecContext.symbols_open s.maxW s.maxH hopen syms))

/-! ## What a block can see of the stores (R14, R116) -/

theorem gridWord_congr {d d' : DecContext} {y x : U16} (hlen : rowLenRead d y = rowLenRead d' y)
    (hcell : memRead d y x = memRead d' y x) : gridWord d y x = gridWord d' y x := by
  rw [gridWord, gridWord, rowLenAt, rowLenAt, cellAt, cellAt, hlen, hcell]

/-- Two contexts that differ in nothing that the block being parsed has determined: their registers are equal, and so
are the rows closed and the pixels of the row in progress, read as `GRID_RD` reads them. -/
structure DecContext.Alike (d d' : DecContext) : Prop where
  registers : decRegisters d = decRegisters d'
  rows : ∀ y, y < d.row → ∀ x, gridWord d y x = gridWord d' y x
  openRow : ∀ x, x < d.col → cellAt d d.row x = cellAt d' d.row x

section Alike

variable {d d' : DecContext}

theorem DecContext.Alike.exists_stores (h : d.Alike d') :
    ∃ rowLen grid, d' = { d with rowLen := rowLen, grid := grid } := by
  obtain ⟨hreg, -, -⟩ := h
  cases d; cases d'
  simp only [decRegisters, DecContext.mk.injEq, and_true] at hreg
  simp only [DecContext.mk.injEq, hreg, true_and]
  exact ⟨_, _, rfl, rfl⟩

theorem alike_openBlock (d d' : DecContext) : (openBlock d).Alike (openBlock d') :=
  ⟨rfl, fun _ hy => absurd hy BitVec.not_lt_zero, fun _ hx => absurd hx BitVec.not_lt_zero⟩

/-- Tracking the predicate touches no store and no position. -/
theorem DecContext.Alike.predChar (h : d.Alike d') (cp : U32) : (predChar cp d).Alike (predChar cp d') := by
  obtain ⟨rowLen, grid, rfl⟩ := h.exists_stores
  exact ⟨rfl, h.rows, h.openRow⟩

theorem DecContext.Alike.predLine (h : d.Alike d') : (predLine d).Alike (predLine d') := by
  obtain ⟨rowLen, grid, rfl⟩ := h.exists_stores
  exact ⟨rfl, h.rows, h.openRow⟩

theorem DecContext.Alike.newLine (h : d.Alike d') : d.newLine.Alike d'.newLine := by
  obtain ⟨rowLen, grid, rfl⟩ := h.exists_stores
  exact ⟨rfl, h.rows, h.openRow⟩

theorem DecContext.Alike.reject (h : d.Alike d') (e : DecStatus) : (reject e d).Alike (reject e d') := by
  obtain ⟨rowLen, grid, rfl⟩ := h.exists_stores
  exact ⟨rfl, h.rows, h.openRow⟩

theorem DecContext.Alike.hold (h : d.Alike d') (n1 n2 : Nibble) :
    ({ d with holdR := n1, holdG := n2, pending := true } : DecContext).Alike
      { d' with holdR := n1, holdG := n2, pending := true } := by
  obtain ⟨rowLen, grid, rfl⟩ := h.exists_stores
  exact ⟨rfl, h.rows, h.openRow⟩

theorem cellAt_memWrite (d : DecContext) (y x y' x' : U16) (v : U32) :
    cellAt (memWrite y x v d) y' x' = if y' = y ∧ x' = x then v else cellAt d y' x' := by
  simp only [cellAt, memRead_memWrite]
  split <;> rfl

/-- A cell written in another row is not seen (R31). -/
theorem gridWord_memWrite_other (d : DecContext) {y y' : U16} (hy : y' ≠ y) (x x' : U16) (v : U32) :
    gridWord (memWrite y x v d) y' x' = gridWord d y' x' :=
  gridWord_congr rfl ((memRead_memWrite d y x y' x' v).trans (if_neg fun hpos => hy hpos.1))

/-- An entry of `ROWLEN` written for another row is not seen. -/
theorem gridWord_rowLenWrite_other (d : DecContext) {y y' : U16} (hy : y' ≠ y) (n x' : U16) :
    gridWord (rowLenWrite y n d) y' x' = gridWord d y' x' :=
  gridWord_congr ((rowLenRead_rowLenWrite d y n y').trans (if_neg hy)) rfl

theorem gridWord_rowLenWrite_same (d : DecContext) (y n x : U16) :
    gridWord (rowLenWrite y n d) y x = if x < n then cellAt d y x else Config.padPixel := by
  have hlen : rowLenAt (rowLenWrite y n d) y = n := by
    rw [rowLenAt, rowLenRead_rowLenWrite, if_pos rfl, Option.getD_some]
  rw [gridWord, hlen]
  rfl

/-- A pixel stored at the position is in no row closed, and is the next of the row in progress. -/
theorem DecContext.Alike.pixel (h : d.Alike d') (v : U32) :
    ({ memWrite d.row d.col v d with col := d.col + 1#16, pending := false } : DecContext).Alike
      { memWrite d'.row d'.col v d' with col := d'.col + 1#16, pending := false } := by
  obtain ⟨rowLen, grid, rfl⟩ := h.exists_stores
  refine ⟨rfl, fun y hy x => ?_, fun x hx => ?_⟩
  · have hne : y ≠ d.row := by rintro rfl; exact BitVec.lt_irrefl _ hy
    exact (gridWord_memWrite_other d hne _ x v).trans ((h.rows y hy x).trans (gridWord_memWrite_other _ hne _ x v).symm)
  · refine (cellAt_memWrite d d.row d.col d.row x v).trans (Eq.trans ?_ (cellAt_memWrite _ d.row d.col d.row x v).symm)
    obtain hx | rfl := lt_or_eq_of_lt_add_one hx
    · rw [h.openRow x hx]
    · rw [if_pos ⟨rfl, rfl⟩, if_pos ⟨rfl, rfl⟩]

/-- The row in progress, once counted, is one of the rows closed. -/
theorem DecContext.Alike.countRow (h : d.Alike d') :
    ({ rowLenWrite d.row d.col d with
        wmax := if d.wmax ≤ d.col then d.col else d.wmax, row := d.row + 1#16, col := 0#16 } : DecContext).Alike
      { rowLenWrite d'.row d'.col d' with
        wmax := if d'.wmax ≤ d'.col then d'.col else d'.wmax, row := d'.row + 1#16, col := 0#16 } := by
  obtain ⟨rowLen, grid, rfl⟩ := h.exists_stores
  refine ⟨rfl, fun y hy x => ?_, fun x hx => absurd hx BitVec.not_lt_zero⟩
  obtain hy | rfl := lt_or_eq_of_lt_add_one hy
  · have hne : y ≠ d.row := by rintro rfl; exact BitVec.lt_irrefl _ hy
    exact (gridWord_rowLenWrite_other d hne _ x).trans
      ((h.rows y hy x).trans (gridWord_rowLenWrite_other _ hne _ x).symm)
  · refine (gridWord_rowLenWrite_same d d.row d.col x).trans
      (Eq.trans ?_ (gridWord_rowLenWrite_same _ d.row d.col x).symm)
    split
    · exact h.openRow x ‹_›
    · rfl

theorem DecContext.Alike.parseChar (h : d.Alike d') (mw mh : U16) (cp : U32) :
    (parseChar mw mh cp d).Alike (parseChar mw mh cp d') := by
  have hpending : d'.pending = d.pending := (congrArg DecContext.pending h.registers).symm
  have hcol : d'.col = d.col := (congrArg DecContext.col h.registers).symm
  have hrow : d'.row = d.row := (congrArg DecContext.row h.registers).symm
  cases hu : unpackGlyph cp with
  | none =>
    rw [parseChar_invalid _ _ _ hu, parseChar_invalid _ _ _ hu]
    exact h.reject _
  | some p =>
    cases hp : d.pending with
    | false =>
      rw [parseChar_first _ _ hu hp, parseChar_first _ _ hu (hpending.trans hp)]
      exact h.hold _ _
    | true =>
      by_cases hover : mw ≤ d.col ∨ mh ≤ d.row
      · rw [parseChar_overflow hu hp hover, parseChar_overflow hu (hpending.trans hp) (by rwa [hcol, hrow])]
        exact h.reject _
      · have hlt : d.col < mw ∧ d.row < mh := (not_or.1 hover).imp BitVec.not_le.1 BitVec.not_le.1
        have hholdR : d'.holdR = d.holdR := (congrArg DecContext.holdR h.registers).symm
        have hholdG : d'.holdG = d.holdG := (congrArg DecContext.holdG h.registers).symm
        rw [parseChar_second hu hp hlt.1 hlt.2,
          parseChar_second hu (hpending.trans hp) (by rw [hcol]; exact hlt.1) (by rw [hrow]; exact hlt.2),
          hholdR, hholdG]
        exact h.pixel _

theorem DecContext.Alike.closeRow (h : d.Alike d') : (closeRow d).Alike (closeRow d') := by
  have hpending : d'.pending = d.pending := (congrArg DecContext.pending h.registers).symm
  have hcol : d'.col = d.col := (congrArg DecContext.col h.registers).symm
  cases hp : d.pending with
  | true =>
    rw [closeRow_odd hp, closeRow_odd (hpending.trans hp)]
    exact h.reject _
  | false =>
    by_cases hc : d.col = 0#16
    · rw [closeRow_empty hp hc, closeRow_empty (hpending.trans hp) (hcol.trans hc)]
      exact h
    · rw [closeRow_counted hp hc, closeRow_counted (hpending.trans hp) (by rwa [hcol])]
      exact h.countRow

theorem DecContext.Alike.lineEnd (h : d.Alike d') : d.lineEnd.Alike d'.lineEnd := by
  have hstate : d'.state = d.state := (congrArg DecContext.state h.registers).symm
  rw [DecContext.lineEnd, DecContext.lineEnd, hstate]
  split
  · exact h.predLine.closeRow
  · exact h.predLine

theorem DecContext.Alike.symbol (h : d.Alike d') (mw mh : U16) (x : InSymbol) :
    (d.symbol mw mh x).Alike (d'.symbol mw mh x) := by
  have hstate : d'.state = d.state := (congrArg DecContext.state h.registers).symm
  cases x with
  | brk => exact h.lineEnd.newLine
  | char cp =>
    rw [DecContext.symbol, DecContext.symbol, hstate]
    split
    · exact (h.predChar cp).parseChar mw mh cp
    · exact h.predChar cp

theorem DecContext.Alike.symbols (h : d.Alike d') (mw mh : U16) (syms : List InSymbol) :
    (d.symbols mw mh syms).Alike (d'.symbols mw mh syms) := by
  induction syms generalizing d d' with
  | nil => exact h
  | cons x syms ih => exact ih (h.symbol mw mh x)

/-- The finalisation reads registers only (R107). -/
theorem DecContext.Alike.finishBlock_registers (h : d.Alike d') :
    decRegisters (finishBlock d) = decRegisters (finishBlock d') := by
  obtain ⟨rowLen, grid, rfl⟩ := h.exists_stores
  unfold finishBlock blockResult
  cases d.state with
  | active => simp only; split <;> rfl
  | idle | reject | done => rfl

theorem DecContext.Alike.decDoneData_finishBlock (h : d.Alike d') :
    decDoneData (finishBlock d) = decDoneData (finishBlock d') := by
  have hdata := congrArg decDoneData h.finishBlock_registers
  exact hdata

/-- The result is no higher than the rows closed (R107). -/
theorem finishBlock_h (d : DecContext) : (finishBlock d).h = d.row ∨ (finishBlock d).h = 0#16 := by
  unfold finishBlock blockResult
  cases d.state with
  | active => simp only; split <;> simp
  | idle | reject | done => exact .inr rfl

theorem gridWord_finishBlock (d : DecContext) (y x : U16) : gridWord (finishBlock d) y x = gridWord d y x :=
  gridWord_congr (rowLenRead_congr (finishBlock_rowLen d) y) (memRead_congr (finishBlock_grid d) y x)

theorem DecContext.Alike.finishBlock_rows (h : d.Alike d') {y : U16} (hy : y < (finishBlock d).h) (x : U16) :
    gridWord (finishBlock d) y x = gridWord (finishBlock d') y x := by
  rw [gridWord_finishBlock, gridWord_finishBlock]
  obtain hh | hh := finishBlock_h d
  · exact h.rows y (by rwa [hh] at hy) x
  · exact absurd hy (by rw [hh]; exact BitVec.not_lt_zero)

end Alike

/-- `GRID_RD` answers the same of two results with equal registers and equal cells (R109). -/
theorem newResponses_gridRd_congr {t t' u u' : State} {x y : U16} (hreg : decRegisters t.dec = decRegisters t'.dec)
    (hcells : y < t.dec.h → gridWord t.dec y x = gridWord t'.dec y x) (hu : exec (.gridRd x y) t = .next u)
    (hu' : exec (.gridRd x y) t' = .next u') : newResponses t u = newResponses t' u' := by
  have hstate : t'.dec.state = t.dec.state := (congrArg DecContext.state hreg).symm
  have hstatus : t'.dec.status = t.dec.status := (congrArg DecContext.status hreg).symm
  have hw : t'.dec.w = t.dec.w := (congrArg DecContext.w hreg).symm
  have hh : t'.dec.h = t.dec.h := (congrArg DecContext.h hreg).symm
  by_cases hres : t.dec.state = .done ∧ t.dec.status = .ok
  · obtain ⟨hdone, hok⟩ := hres
    by_cases hout : t.dec.w ≤ x ∨ t.dec.h ≤ y
    · cases (exec_gridRd_outside hdone hok hout).symm.trans hu
      cases (exec_gridRd_outside (hstate.trans hdone) (hstatus.trans hok) (by rwa [hw, hh])).symm.trans hu'
      rw [newResponses_raised, newResponses_raised]
    · have hin : x < t.dec.w ∧ y < t.dec.h := (not_or.1 hout).imp BitVec.not_le.1 BitVec.not_le.1
      cases (exec_gridRd_inside hdone hok hin.1 hin.2).symm.trans hu
      cases (exec_gridRd_inside (hstate.trans hdone) (hstatus.trans hok) (by rw [hw]; exact hin.1)
        (by rw [hh]; exact hin.2)).symm.trans hu'
      rw [newResponses_eq rfl, newResponses_eq rfl, hcells hin.2]
  · cases (exec_gridRd_no_result x y hres).symm.trans hu
    cases (exec_gridRd_no_result x y (by rwa [hstate, hstatus])).symm.trans hu'
    rw [newResponses_raised, newResponses_raised]

/-- Settles O44: the blocks stay alike symbol by symbol, so their results have equal registers and equal cells. -/
theorem blocksDoNotSeeEarlierBlocks : Obligations.BlocksDoNotSeeEarlierBlocks := by
  intro syms s s' hs hs' hw hh
  have halike := ((alike_openBlock s.dec s'.dec).symbols s.maxW s.maxH syms).lineEnd
  have hrun' := runInstrs_decodeSyms_block syms hs'
  rw [← hw, ← hh] at hrun'
  have hreg : decRegisters (s.dec.block s.maxW s.maxH syms) = decRegisters (s'.dec.block s.maxW s.maxH syms) :=
    halike.finishBlock_registers
  refine ⟨_, _, runInstrs_decodeSyms_block syms hs, hrun', hreg, ?_, fun x y u u' hu hu' => ?_⟩
  · rw [newResponses_eq rfl, newResponses_eq rfl]
    exact congrArg (fun v => [Response.mk .decDone v]) halike.decDoneData_finishBlock
  · exact newResponses_gridRd_congr hreg (fun hy => halike.finishBlock_rows hy x) hu hu'

end Sys2Proof.Machine

namespace Sys2Proof.Machine

open Sys2Proof.Spec

/-! ## The source's `decodeRow`, two characters at a time (R96) -/

theorem decodeRow_singleton (c : U32) :
    decodeRow [c] = .error (if (unpackGlyph c).isSome then .invalidRowLength else .invalidGlyph) := by
  rw [unpackGlyph_isSome, decodeRow]
  split <;> rfl

/-- A pair of glyphs gives a cell before those of the rest; any other pair is the error `InvalidGlyph`. -/
theorem decodeRow_pair (c c' : U32) (rest : List U32) :
    (∃ nr ng nb n, unpackGlyph c = some (nr, ng) ∧ unpackGlyph c' = some (nb, n) ∧
      decodeRow (c :: c' :: rest) = (decodeRow rest).map (decodedCell nr ng nb :: ·)) ∨
    ((unpackGlyph c = none ∨ unpackGlyph c' = none) ∧ decodeRow (c :: c' :: rest) = .error .invalidGlyph) := by
  rw [decodeRow]
  cases hc : unpackGlyph c with
  | none => exact .inr ⟨.inl rfl, rfl⟩
  | some p =>
    cases hc' : unpackGlyph c' with
    | none => exact .inr ⟨.inr rfl, rfl⟩
    | some p' => exact .inl ⟨p.1, p.2, p'.1, p'.2, rfl, rfl, by cases decodeRow rest <;> rfl⟩

/-- What a row of cells says of its characters: none, or a pair of glyphs before a row of the other cells. -/
theorem decodeRow_eq_ok {cs cells : List U32} (h : decodeRow cs = .ok cells) :
    (cs = [] ∧ cells = []) ∨
    ∃ c c' rest nr ng nb n cells', cs = c :: c' :: rest ∧ cells = decodedCell nr ng nb :: cells' ∧
      unpackGlyph c = some (nr, ng) ∧ unpackGlyph c' = some (nb, n) ∧ decodeRow rest = .ok cells' := by
  match cs with
  | [] => cases h; exact .inl ⟨rfl, rfl⟩
  | [c] => rw [decodeRow_singleton] at h; cases h
  | c :: c' :: rest =>
    obtain ⟨nr, ng, nb, n, hc, hc', heq⟩ | ⟨-, heq⟩ := decodeRow_pair c c' rest
    · rw [heq] at h
      cases hrest : decodeRow rest with
      | error e => rw [hrest] at h; cases h
      | ok cells' =>
        rw [hrest] at h
        cases h
        exact .inr ⟨c, c', rest, nr, ng, nb, n, cells', rfl, rfl, hc, hc', hrest⟩
    · rw [heq] at h; cases h

theorem length_of_decodeRow {cs cells : List U32} (h : decodeRow cs = .ok cells) : cs.length = 2 * cells.length := by
  induction cells generalizing cs with
  | nil =>
    obtain ⟨rfl, -⟩ | ⟨c, c', rest, nr, ng, nb, n, cells', -, hcells, -⟩ := decodeRow_eq_ok h
    · rfl
    · cases hcells
  | cons cell cells ih =>
    obtain ⟨-, hcells⟩ | ⟨c, c', rest, nr, ng, nb, n, cells', rfl, hcells, -, -, hrest⟩ := decodeRow_eq_ok h
    · cases hcells
    · cases hcells
      simp only [List.length_cons, ih hrest]
      omega

/-! ## The characters of a row (R90) -/

/-- `d'` is `d` with the pixels `cells` stored in its row in progress, from its column on. -/
structure DecContext.Parsed (d : DecContext) (cells : List U32) (d' : DecContext) : Prop where
  state : d'.state = .active
  pending : d'.pending = false
  status : d'.status = d.status
  row : d'.row = d.row
  wmax : d'.wmax = d.wmax
  rowLen : d'.rowLen = d.rowLen
  col : d'.col.toNat = d.col.toNat + cells.length
  cells : ∀ i, i < cells.length → memRead d' d.row (BitVec.ofNat 16 (d.col.toNat + i)) = cells[i]?
  others : ∀ y x, (y = d.row → x < d.col) → memRead d' y x = memRead d y x

theorem DecContext.parsed_nil {d : DecContext} (hs : d.state = .active) (hp : d.pending = false) : d.Parsed [] d :=
  ⟨hs, hp, rfl, rfl, rfl, rfl, rfl, fun _ hi => absurd hi (Nat.not_lt_zero _), fun _ _ _ => rfl⟩

theorem DecContext.Parsed.append {d d' d'' : DecContext} {cells cells' : List U32} (h : d.Parsed cells d')
    (h' : d'.Parsed cells' d'') : d.Parsed (cells ++ cells') d'' where
  state := h'.state
  pending := h'.pending
  status := h'.status.trans h.status
  row := h'.row.trans h.row
  wmax := h'.wmax.trans h.wmax
  rowLen := h'.rowLen.trans h.rowLen
  col := by rw [h'.col, h.col, List.length_append, Nat.add_assoc]
  cells i hi := by
    have hlt := d''.col.isLt
    rw [h'.col, h.col] at hlt
    rw [List.length_append] at hi
    by_cases hi' : i < cells.length
    · have hx : BitVec.ofNat 16 (d.col.toNat + i) < d'.col := by
        rw [BitVec.lt_def, h.col, BitVec.toNat_ofNat]
        omega
      rw [h'.others _ _ fun _ => hx, h.cells i hi', List.getElem?_append_left hi']
    · have hcells := h'.cells (i - cells.length) (by omega)
      rw [h.row, h.col, show d.col.toNat + cells.length + (i - cells.length) = d.col.toNat + i by omega] at hcells
      rw [hcells, List.getElem?_append_right (by omega)]
  others y x hyx := by
    have hle : d.col ≤ d'.col := by rw [BitVec.le_def, h.col]; omega
    rw [h'.others y x fun hy => Nat.lt_of_lt_of_le (hyx (hy.trans h.row)) hle, h.others y x hyx]

section Row

variable {mw mh : U16} {d : DecContext}

theorem DecContext.symbol_char_active (hs : d.state = .active) (c : U32) :
    d.symbol mw mh (.char c) = parseChar mw mh c (predChar c d) := if_pos hs

/-- The first glyph of a pair, held (R16). -/
def DecContext.hold (d : DecContext) (n1 n2 : Nibble) : DecContext :=
  { d with holdR := n1, holdG := n2, pending := true }

theorem DecContext.symbol_first (hs : d.state = .active) (hp : d.pending = false) {c : U32} {n1 n2 : Nibble}
    (hc : unpackGlyph c = some (n1, n2)) :
    d.symbol mw mh (.char c) = (predChar c d).hold n1 n2 :=
  (symbol_char_active hs c).trans (parseChar_first (d := predChar c d) mw mh hc hp)

/-- What is no glyph rejects the block (R90). -/
theorem DecContext.symbol_invalid (hs : d.state = .active) {c : U32} (hc : unpackGlyph c = none) :
    (d.symbol mw mh (.char c)).state = .reject ∧ (d.symbol mw mh (.char c)).status = .invalidGlyph := by
  rw [symbol_char_active hs, parseChar_invalid _ _ _ hc]
  exact ⟨rfl, rfl⟩

/-- Two glyphs that fit the store add one pixel to the row. -/
theorem DecContext.parsed_pair (hs : d.state = .active) (hp : d.pending = false) (hcol : d.col < mw) (hrow : d.row < mh)
    {c c' : U32} {nr ng nb n : Nibble} (hc : unpackGlyph c = some (nr, ng)) (hc' : unpackGlyph c' = some (nb, n)) :
    d.Parsed [decodedCell nr ng nb] (d.symbols mw mh [.char c, .char c']) := by
  have hfirst := symbol_first (mw := mw) (mh := mh) hs hp hc
  have heq : d.symbols mw mh [.char c, .char c'] =
      { memWrite d.row d.col (decodedCell nr ng nb) (predChar c' ((predChar c d).hold nr ng)) with
        col := d.col + 1#16, pending := false } := by
    rw [symbols_cons, symbols_cons, hfirst, symbol_char_active (d := (predChar c d).hold nr ng) hs]
    exact parseChar_second (d := predChar c' ((predChar c d).hold nr ng)) hc' rfl hcol hrow
  have hread (y x : U16) := memRead_memWrite d d.row d.col y x (decodedCell nr ng nb)
  rw [heq]
  exact {
    state := hs
    pending := rfl
    status := rfl
    row := rfl
    wmax := rfl
    rowLen := rfl
    col := toNat_add_one hcol
    cells := fun i hi => by
      obtain rfl : i = 0 := by simpa using hi
      rw [Nat.add_zero, BitVec.ofNat_toNat, BitVec.setWidth_eq]
      exact (hread d.row d.col).trans (if_pos ⟨rfl, rfl⟩)
    others := fun y x hyx => by
      refine (hread y x).trans (if_neg ?_)
      rintro ⟨rfl, rfl⟩
      exact BitVec.lt_irrefl _ (hyx rfl) }

/-- The characters of a good row that fits the store add its pixels (R96). -/
theorem DecContext.parsed_row {cs cells : List U32} (h : decodeRow cs = .ok cells) (hs : d.state = .active)
    (hp : d.pending = false) (hcol : d.col.toNat + cells.length ≤ mw.toNat) (hrow : cs ≠ [] → d.row < mh) :
    d.Parsed cells (d.symbols mw mh (cs.map .char)) := by
  induction cells generalizing cs d with
  | nil =>
    obtain ⟨rfl, -⟩ | ⟨c, c', rest, nr, ng, nb, n, cells', -, hcells, -⟩ := decodeRow_eq_ok h
    · exact parsed_nil hs hp
    · cases hcells
  | cons cell cells ih =>
    obtain ⟨-, hcells⟩ | ⟨c, c', rest, nr, ng, nb, n, cells', rfl, hcells, hc, hc', hrest⟩ := decodeRow_eq_ok h
    · cases hcells
    · cases hcells
      rw [List.length_cons] at hcol
      have hrow := hrow (List.cons_ne_nil _ _)
      have hpair := parsed_pair (mw := mw) (mh := mh) hs hp (BitVec.lt_def.2 (by omega)) hrow hc hc'
      refine hpair.append (ih hrest hpair.state hpair.pending ?_ fun _ => hpair.row.symm ▸ hrow)
      rw [hpair.col, List.length_singleton]
      omega

/-- A rejected block keeps its error (R134). -/
theorem DecContext.symbols_reject (hs : d.state = .reject) (syms : List InSymbol) :
    (d.symbols mw mh syms).state = .reject ∧ (d.symbols mw mh syms).status = d.status := by
  induction syms generalizing d with
  | nil => exact ⟨hs, rfl⟩
  | cons x syms ih =>
    have hx : (d.symbol mw mh x).state = .reject ∧ (d.symbol mw mh x).status = d.status := by
      cases x with
      | brk => rw [symbol, lineEnd_reject hs]; exact ⟨hs, rfl⟩
      | char c => rw [symbol, if_neg (by rw [hs]; decide)]; exact ⟨hs, rfl⟩
    exact ⟨(ih hx.1).1, (ih hx.1).2.trans hx.2⟩

/-- A line: its characters, and its end. -/
def DecContext.line (mw mh : U16) (d : DecContext) (cs : List U32) : DecContext :=
  (d.symbols mw mh (cs.map .char)).lineEnd

theorem DecContext.line_reject (hs : d.state = .reject) (cs : List U32) :
    (d.line mw mh cs).state = .reject ∧ (d.line mw mh cs).status = d.status := by
  obtain ⟨hs', hst⟩ := symbols_reject (mw := mw) (mh := mh) hs (cs.map .char)
  rw [line, lineEnd_reject hs']
  exact ⟨hs', hst⟩

/-- A character that is no glyph rejects the block, whatever follows it in its line (R90, R134). -/
theorem DecContext.line_invalid (hs : d.state = .active) {c : U32} (hc : unpackGlyph c = none) (cs : List U32) :
    (d.line mw mh (c :: cs)).state = .reject ∧ (d.line mw mh (c :: cs)).status = .invalidGlyph := by
  obtain ⟨hs', hst⟩ := symbol_invalid (mw := mw) (mh := mh) hs hc
  obtain ⟨hline, hline'⟩ := line_reject (mw := mw) (mh := mh) hs' cs
  exact ⟨hline, hline'.trans hst⟩

/-- The line of a held glyph, from its first character on. -/
theorem DecContext.line_first (hs : d.state = .active) (hp : d.pending = false) {c : U32} {n1 n2 : Nibble}
    (hc : unpackGlyph c = some (n1, n2)) (cs : List U32) :
    d.line mw mh (c :: cs) = ((predChar c d).hold n1 n2).line mw mh cs := by
  rw [← symbol_first (mw := mw) (mh := mh) hs hp hc]
  rfl

/-- A row with an error that fits the store rejects the block with it, at the latest when it ends (R96). -/
theorem DecContext.line_error {cs : List U32} {e : DecStatus} (h : decodeRow cs = .error e) (hs : d.state = .active)
    (hp : d.pending = false) (hcol : d.col.toNat + cs.length / 2 ≤ mw.toNat) (hrow : d.row < mh) :
    (d.line mw mh cs).state = .reject ∧ (d.line mw mh cs).status = e := by
  induction cs using List.twoStepInduction generalizing d with
  | nil => cases h
  | singleton c =>
    rw [decodeRow_singleton] at h
    cases hc : unpackGlyph c with
    | none =>
      rw [hc] at h
      cases h
      exact line_invalid hs hc []
    | some p =>
      rw [hc] at h
      cases h
      have hline : d.line mw mh [c] = ((predChar c d).hold p.1 p.2).lineEnd := line_first hs hp hc []
      rw [hline, lineEnd_active (d := (predChar c d).hold p.1 p.2) hs, closeRow_odd rfl]
      exact ⟨rfl, rfl⟩
  | cons_cons c c' rest ih _ =>
    obtain ⟨nr, ng, nb, n, hc, hc', heq⟩ | ⟨hnone, heq⟩ := decodeRow_pair c c' rest
    · have hrest : decodeRow rest = .error e := by
        rw [heq] at h
        cases hr : decodeRow rest with
        | error e' => rw [hr] at h; exact h
        | ok cells => rw [hr] at h; cases h
      simp only [List.length_cons] at hcol
      have hpair := parsed_pair (mw := mw) (mh := mh) hs hp (BitVec.lt_def.2 (by omega)) hrow hc hc'
      have hcol' : (d.symbols mw mh [.char c, .char c']).col.toNat + rest.length / 2 ≤ mw.toNat := by
        rw [hpair.col, List.length_singleton]
        omega
      exact ih hrest hpair.state hpair.pending hcol' (hpair.row.symm ▸ hrow)
    · rw [heq] at h
      cases h
      cases hc : unpackGlyph c with
      | none => exact line_invalid hs hc (c' :: rest)
      | some p =>
        have hc' : unpackGlyph c' = none := hnone.resolve_left (by rw [hc]; nofun)
        rw [line_first hs hp hc]
        exact line_invalid (d := (predChar c d).hold p.1 p.2) hs hc' rest

/-! ## A whole line (R91, R92, R96) -/

/-- `e` is `d` after a line whose row has the pixels `cells`: a row counted, or nothing for an empty line. -/
structure DecContext.LineRead (d : DecContext) (cells : List U32) (e : DecContext) : Prop where
  state : e.state = .active
  pending : e.pending = false
  col : e.col = 0#16
  status : e.status = d.status
  row : e.row.toNat = d.row.toNat + if cells = [] then 0 else 1
  wmax : e.wmax.toNat = max d.wmax.toNat cells.length
  rowLen : cells ≠ [] → rowLenRead e d.row = some (BitVec.ofNat 16 cells.length)
  otherRowLens : ∀ y, y ≠ d.row → rowLenRead e y = rowLenRead d y
  cells : ∀ x, x < cells.length → memRead e d.row (BitVec.ofNat 16 x) = cells[x]?
  otherCells : ∀ y x, y ≠ d.row → memRead e y x = memRead d y x

/-- The end of a line closes the row parsed in it (R92). -/
theorem DecContext.Parsed.lineEnd {cells : List U32} {d' : DecContext} (h : d.Parsed cells d') (hc : d.col = 0#16)
    (hrow : cells ≠ [] → d.row < mh) : d.LineRead cells d'.lineEnd := by
  have hcol : d'.col.toNat = cells.length := by rw [h.col, hc]; exact Nat.zero_add _
  have hcells (x : Nat) (hx : x < cells.length) : memRead d' d.row (BitVec.ofNat 16 x) = cells[x]? := by
    have hx := h.cells x hx
    rwa [hc, show (0#16).toNat + x = x from Nat.zero_add x] at hx
  have hothers (y x : U16) (hy : y ≠ d.row) : memRead d' y x = memRead d y x := h.others y x fun hy' => absurd hy' hy
  rw [lineEnd_active h.state]
  cases cells with
  | nil =>
    have hcol0 : d'.col = 0#16 := BitVec.eq_of_toNat_eq hcol
    rw [closeRow_empty (d := predLine d') h.pending hcol0]
    exact {
      state := h.state
      pending := h.pending
      col := hcol0
      status := h.status
      row := congrArg BitVec.toNat h.row
      wmax := by rw [predLine_wmax, h.wmax]; simp
      rowLen := fun hne => absurd rfl hne
      otherRowLens := fun y _ => rowLenRead_congr h.rowLen y
      cells := hcells
      otherCells := hothers }
  | cons cell cells =>
    have hne : d'.col ≠ 0#16 := fun h0 => by simp [h0] at hcol
    have hlen : d'.col = BitVec.ofNat 16 (cell :: cells).length := by
      rw [← hcol, BitVec.ofNat_toNat, BitVec.setWidth_eq]
    have hread (y : U16) : rowLenRead (rowLenWrite d'.row d'.col d') y =
        if y = d.row then some d'.col else rowLenRead d y := by
      rw [rowLenRead_rowLenWrite, h.row, rowLenRead_congr h.rowLen]
    rw [closeRow_counted (d := predLine d') h.pending hne]
    exact {
      state := h.state
      pending := h.pending
      col := rfl
      status := h.status
      row := (toNat_add_one (h.row.symm ▸ hrow (List.cons_ne_nil _ _))).trans (by rw [predLine_row, h.row]; rfl)
      wmax := (wmax_toNat d'.wmax d'.col).trans (by rw [h.wmax, hcol])
      rowLen := fun _ => (hread d.row).trans (by rw [if_pos rfl, hlen])
      otherRowLens := fun y hy => (hread y).trans (if_neg hy)
      cells := hcells
      otherCells := hothers }

/-- A good row that fits the store, as a line (R96). -/
theorem DecContext.line_ok {cs cells : List U32} (h : decodeRow cs = .ok cells) (hs : d.state = .active)
    (hp : d.pending = false) (hc : d.col = 0#16) (hlen : cs.length / 2 ≤ mw.toNat) (hrow : cs ≠ [] → d.row < mh) :
    d.LineRead cells (d.line mw mh cs) := by
  have hlength := length_of_decodeRow h
  refine (parsed_row h hs hp ?_ hrow).lineEnd hc fun hne => hrow fun hnil => ?_
  · rw [hc]
    simp only [BitVec.toNat_ofNat]
    omega
  · cases hnil
    cases h
    exact hne rfl

end Row

/-- Settles O45: the commands are one line of the block, which ends in the row's error or has read its cells. -/
theorem rowsDecodeAsDecodeRow : Obligations.RowsDecodeAsDecodeRow := by
  intro cs s hs hp hc hrow hlen
  have hrun : runInstrs (cs.map Instr.decChar ++ [.decBreak]) s =
      .next { s with dec := (s.dec.line s.maxW s.maxH cs).newLine } := by
    have hcmds : cs.map Instr.decChar ++ [.decBreak] =
        (cs.map InSymbol.char ++ [InSymbol.brk]).map symbolCommand ++ [] := by
      simp [symbolCommand]
    rw [hcmds, runInstrs_symbols _ [] (.inl hs), DecContext.symbols_append]
    rfl
  refine ⟨_, hrun, ?_⟩
  cases hrowcells : decodeRow cs with
  | error e =>
    refine DecContext.line_error hrowcells hs hp ?_ hrow
    rw [hc]
    simpa using hlen
  | ok cells =>
    have hline := DecContext.line_ok hrowcells hs hp hc hlen fun _ => hrow
    have hlength := length_of_decodeRow hrowcells
    exact ⟨hline.state, hline.status, by omega, hline.cells, hline.row, hline.rowLen⟩

end Sys2Proof.Machine

namespace Sys2Proof.Machine

open Sys2Proof.Spec

/-! ## The rows of a block (R17, R104) -/

/-- The lengths and the cells of `rows` are stored, row by row (R21, R22). -/
def DecContext.Stores (d : DecContext) (rows : List (List U32)) : Prop :=
  ∀ y row, rows[y]? = some row → rowLenRead d (BitVec.ofNat 16 y) = some (BitVec.ofNat 16 row.length) ∧
    ∀ x, x < row.length → memRead d (BitVec.ofNat 16 y) (BitVec.ofNat 16 x) = row[x]?

/-- A block between two lines, with the rows `rows` closed and no error. -/
structure DecContext.Between (d : DecContext) (rows : List (List U32)) : Prop where
  state : d.state = .active
  pending : d.pending = false
  col : d.col = 0#16
  status : d.status = .ok
  row : d.row.toNat = rows.length
  wmax : d.wmax.toNat = (rows.map List.length).foldr max 0
  stores : d.Stores rows

theorem between_openBlock (d : DecContext) : (openBlock d).Between [] :=
  ⟨rfl, rfl, rfl, rfl, rfl, rfl, fun _ _ h => nomatch h⟩

theorem DecContext.Between.newLine {d : DecContext} {rows : List (List U32)} (h : d.Between rows) :
    d.newLine.Between rows :=
  ⟨h.state, h.pending, h.col, h.status, h.row, h.wmax, h.stores⟩

theorem foldr_max_concat (l : List Nat) (n : Nat) : (l ++ [n]).foldr max 0 = max (l.foldr max 0) n := by
  induction l with
  | nil => simp
  | cons a l ih => rw [List.cons_append, List.foldr_cons, ih, List.foldr_cons, max_assoc]

/-- A line adds its row, if it has one (R92, R104). -/
theorem DecContext.Between.line {d e : DecContext} {rows : List (List U32)} {cells : List U32} (h : d.Between rows)
    (hline : d.LineRead cells e) : e.Between (if cells = [] then rows else rows ++ [cells]) where
  state := hline.state
  pending := hline.pending
  col := hline.col
  status := hline.status.trans h.status
  row := by
    rw [hline.row, h.row]
    split <;> simp
  wmax := by
    rw [hline.wmax, h.wmax]
    split
    · simp [*]
    · rw [List.map_append, List.map_singleton, foldr_max_concat]
  stores := by
    have hrows := d.row.isLt
    rw [h.row] at hrows
    have hold (y : Nat) (row : List U32) (hy : rows[y]? = some row) :
        rowLenRead e (BitVec.ofNat 16 y) = some (BitVec.ofNat 16 row.length) ∧
          ∀ x, x < row.length → memRead e (BitVec.ofNat 16 y) (BitVec.ofNat 16 x) = row[x]? := by
      obtain ⟨hylt, -⟩ := List.getElem?_eq_some_iff.1 hy
      have hne : BitVec.ofNat 16 y ≠ d.row := fun heq => by
        have := congrArg BitVec.toNat heq
        rw [BitVec.toNat_ofNat, h.row] at this
        omega
      rw [hline.otherRowLens _ hne]
      obtain ⟨hlen, hcells⟩ := h.stores y row hy
      exact ⟨hlen, fun x hx => (hline.otherCells _ _ hne).trans (hcells x hx)⟩
    split
    · exact hold
    · rename_i hne
      intro y row hy
      rw [List.getElem?_append] at hy
      split at hy
      · exact hold y row hy
      · obtain ⟨hidx, rfl⟩ := List.getElem?_eq_some_iff.1 hy
        rw [List.length_singleton] at hidx
        have hy : BitVec.ofNat 16 y = d.row := by
          rw [show y = d.row.toNat by rw [h.row]; omega, BitVec.ofNat_toNat, BitVec.setWidth_eq]
        rw [hy, List.getElem_singleton]
        exact ⟨hline.rowLen hne, hline.cells⟩

section Lines

variable {mw mh : U16} {d : DecContext}

/-- The lines that follow one another in a block (R113). -/
def DecContext.lines (mw mh : U16) (d : DecContext) (ls : List (List U32)) : DecContext :=
  ls.foldl (fun d l => d.newLine.line mw mh l) d

/-- The symbols of a block are its lines (R113). -/
theorem lineEnd_symbols {syms : List InSymbol} {l : List U32} {ls : List (List U32)} (h : symbolLines syms = l :: ls) :
    (d.symbols mw mh syms).lineEnd = (d.line mw mh l).lines mw mh ls := by
  induction syms generalizing d l ls with
  | nil => cases h; rfl
  | cons x t ih =>
    obtain ⟨l', ls', ht⟩ := exists_symbolLines t
    cases x with
    | brk => rw [symbolLines, ht] at h; cases h; exact ih ht
    | char c => rw [symbolLines_char c ht] at h; cases h; exact ih ht

theorem lineEnd_symbols_openBlock (d : DecContext) (syms : List InSymbol) :
    ((openBlock d).symbols mw mh syms).lineEnd = (openBlock d).lines mw mh (symbolLines syms) := by
  obtain ⟨l, ls, h⟩ := exists_symbolLines syms
  rw [h]
  exact lineEnd_symbols h

theorem DecContext.lines_reject (hs : d.state = .reject) (ls : List (List U32)) :
    (d.lines mw mh ls).state = .reject ∧ (d.lines mw mh ls).status = d.status := by
  induction ls generalizing d with
  | nil => exact ⟨hs, rfl⟩
  | cons l ls ih =>
    obtain ⟨hs', hst⟩ := line_reject (mw := mw) (mh := mh) (d := d.newLine) hs l
    obtain ⟨hlines, hlines'⟩ := ih hs'
    exact ⟨hlines, hlines'.trans hst⟩

/-- The lines of a block with a character: its rows (R104). -/
def nonemptyLines (ls : List (List U32)) : List (List U32) := ls.filter fun l => !l.isEmpty

/-- The lines of a block within the capacity: its rows in order, or the first error (R104). -/
theorem DecContext.Between.lines {rows : List (List U32)} (h : d.Between rows) {ls : List (List U32)}
    (hw : ∀ l ∈ ls, l.length / 2 ≤ mw.toNat) (hh : rows.length + (nonemptyLines ls).length ≤ mh.toNat) :
    (∀ rows', (nonemptyLines ls).mapM decodeRow = .ok rows' → (d.lines mw mh ls).Between (rows ++ rows')) ∧
    ∀ e, (nonemptyLines ls).mapM decodeRow = .error e →
      (d.lines mw mh ls).state = .reject ∧ (d.lines mw mh ls).status = e := by
  induction ls generalizing d rows with
  | nil =>
    refine ⟨fun rows' hm => ?_, fun e hm => nomatch hm⟩
    have hnil : (nonemptyLines []).mapM decodeRow = .ok [] := rfl
    cases hnil.symm.trans hm
    rw [List.append_nil]
    exact h
  | cons l ls ih =>
    have hd := h.newLine
    have hwl := hw l List.mem_cons_self
    have hw' : ∀ l ∈ ls, l.length / 2 ≤ mw.toNat := fun l hl => hw l (List.mem_cons_of_mem _ hl)
    by_cases hl : l = []
    · have hcells : decodeRow l = .ok [] := by rw [hl]; rfl
      have hnext := hd.line (line_ok (mh := mh) hcells hd.state hd.pending hd.col hwl (absurd hl))
      have hsame : nonemptyLines (l :: ls) = nonemptyLines ls := by simp [nonemptyLines, hl]
      rw [hsame] at hh ⊢
      exact ih hnext hw' hh
    · have hcons : nonemptyLines (l :: ls) = l :: nonemptyLines ls := by simp [nonemptyLines, hl]
      rw [hcons, List.length_cons] at hh
      rw [hcons, List.mapM_cons]
      have hrow : d.newLine.row < mh := by
        rw [BitVec.lt_def, hd.row]
        omega
      cases hcells : decodeRow l with
      | error e =>
        obtain ⟨hs, hst⟩ := line_error hcells hd.state hd.pending (by rw [hd.col]; simpa using hwl) hrow
        obtain ⟨hs', hst'⟩ := lines_reject (mw := mw) (mh := mh) hs ls
        refine ⟨fun rows' hm => (nomatch hm), fun e' hm => ?_⟩
        cases hm
        exact ⟨hs', hst'.trans hst⟩
      | ok cells =>
        have hne : cells ≠ [] := by
          rintro rfl
          exact hl (List.eq_nil_of_length_eq_zero (length_of_decodeRow hcells))
        have hnext := hd.line (line_ok hcells hd.state hd.pending hd.col hwl fun _ => hrow)
        rw [if_neg hne] at hnext
        obtain ⟨hok, herr⟩ := ih hnext hw' (by simp only [List.length_append, List.length_singleton]; omega)
        cases hrest : (nonemptyLines ls).mapM decodeRow with
        | error e =>
          refine ⟨fun rows' hm => (nomatch hm), fun e' hm => ?_⟩
          cases hm
          exact herr e hrest
        | ok rest =>
          refine ⟨fun rows' hm => ?_, fun e' hm => nomatch hm⟩
          cases hm
          have hend := hok rest hrest
          rwa [List.append_assoc] at hend

end Lines

/-! ## The result of a block (R104, R107, R108) -/

theorem decodeLines_ok {ls : List (List U32)} {rows : List (List U32)} (h : decodeLines ls = .ok rows) :
    (nonemptyLines ls).mapM decodeRow = .ok rows ∧ rows ≠ [] := by
  rw [decodeLines] at h
  cases hm : (ls.filter fun l => !l.isEmpty).mapM decodeRow with
  | error e => rw [hm] at h; cases h
  | ok rows' =>
    rw [hm] at h
    cases rows' with
    | nil => cases h
    | cons row rows' => cases h; exact ⟨hm, List.cons_ne_nil _ _⟩

theorem decodeLines_of_mapM {ls rows : List (List U32)} (h : (nonemptyLines ls).mapM decodeRow = .ok rows)
    (hne : rows ≠ []) : decodeLines ls = .ok rows := by
  rw [decodeLines, show (ls.filter fun l => !l.isEmpty).mapM decodeRow = .ok rows from h]
  cases rows with
  | nil => exact absurd rfl hne
  | cons row rows => rfl

theorem decodeLines_error {ls : List (List U32)} {e : DecStatus} (h : decodeLines ls = .error e) :
    (nonemptyLines ls).mapM decodeRow = .error e ∨ ((nonemptyLines ls).mapM decodeRow = .ok [] ∧ e = .emptyInput) := by
  rw [decodeLines] at h
  cases hm : (ls.filter fun l => !l.isEmpty).mapM decodeRow with
  | error e' => rw [hm] at h; cases h; exact .inl hm
  | ok rows' =>
    rw [hm] at h
    cases rows' with
    | nil => cases h; exact .inr ⟨hm, rfl⟩
    | cons row rows' => cases h

/-- The decoder context of an accepted block with the rows `rows` (R104, R107). -/
structure DecContext.Accepted (d : DecContext) (rows : List (List U32)) : Prop where
  state : d.state = .done
  status : d.status = .ok
  w : d.w.toNat = (rows.map List.length).foldr max 0
  h : d.h.toNat = rows.length
  stores : d.Stores rows

theorem DecContext.Between.accepted {d : DecContext} {rows : List (List U32)} (h : d.Between rows) (hne : rows ≠ []) :
    (finishBlock d).Accepted rows := by
  have hr : d.row ≠ 0#16 := fun h0 => hne (List.eq_nil_of_length_eq_zero (by rw [← h.row, h0]; rfl))
  rw [finishBlock_image h.state hr]
  exact ⟨rfl, h.status, h.wmax, h.row, h.stores⟩

/-- `GRID_RD` inside an accepted block answers the row's pixel, or the pad beyond its end (R108, R109). -/
theorem exec_gridRd_accepted {t : State} {rows : List (List U32)} (h : t.dec.Accepted rows) {y x : Nat} {row : List U32}
    (hy : rows[y]? = some row) (hx : x < t.dec.w.toNat) :
    exec (.gridRd (BitVec.ofNat 16 x) (BitVec.ofNat 16 y)) t = .next (answered .pix ((row[x]?).getD 0#32).toNat t) := by
  obtain ⟨hylt, -⟩ := List.getElem?_eq_some_iff.1 hy
  have hrowLe : row.length ≤ t.dec.w.toNat := by
    rw [h.w]
    exact List.le_max_of_le (List.mem_map_of_mem (List.mem_of_getElem? hy)) le_rfl
  have hhlt := t.dec.h.isLt
  have hwlt := t.dec.w.isLt
  have hh := h.h
  have hx' : (BitVec.ofNat 16 x).toNat = x := by rw [BitVec.toNat_ofNat]; omega
  have hy' : (BitVec.ofNat 16 y).toNat = y := by rw [BitVec.toNat_ofNat]; omega
  have hn' : (BitVec.ofNat 16 row.length).toNat = row.length := by rw [BitVec.toNat_ofNat]; omega
  obtain ⟨hlen, hcells⟩ := h.stores y row hy
  rw [exec_gridRd_inside h.state h.status (BitVec.lt_def.2 (by omega)) (BitVec.lt_def.2 (by omega))]
  by_cases hin : x < row.length
  · have hcell := hcells x hin
    rw [List.getElem?_eq_getElem hin] at hcell ⊢
    rw [gridWord_stored hlen (BitVec.lt_def.2 (by omega)) hcell, Option.getD_some]
  · rw [gridWord_pad hlen (BitVec.le_def.2 (by omega)), List.getElem?_eq_none (by omega), Option.getD_none]

section Block

variable {syms : List InSymbol} {mw mh : U16} (d : DecContext)
  (hw : ∀ l ∈ symbolLines syms, l.length / 2 ≤ mw.toNat) (hh : (nonemptyLines (symbolLines syms)).length ≤ mh.toNat)
include hw hh

theorem block_accepted {rows : List (List U32)} (h : decodeLines (symbolLines syms) = .ok rows) :
    (d.block mw mh syms).Accepted rows := by
  obtain ⟨hm, hne⟩ := decodeLines_ok h
  rw [DecContext.block, lineEnd_symbols_openBlock]
  exact (((between_openBlock d).lines hw (by simpa using hh)).1 rows hm).accepted hne

theorem block_error {e : DecStatus} (h : decodeLines (symbolLines syms) = .error e) :
    (d.block mw mh syms).status = e ∧ (d.block mw mh syms).w = 0#16 ∧ (d.block mw mh syms).h = 0#16 := by
  have hlines := (between_openBlock d).lines hw (by simpa using hh)
  rw [DecContext.block, lineEnd_symbols_openBlock]
  obtain hm | ⟨hm, rfl⟩ := decodeLines_error h
  · obtain ⟨hs, hst⟩ := hlines.2 e hm
    rw [finishBlock_reject hs]
    exact ⟨hst, rfl, rfl⟩
  · have hend := hlines.1 [] hm
    rw [finishBlock_empty hend.state (BitVec.eq_of_toNat_eq hend.row)]
    exact ⟨rfl, rfl, rfl⟩

end Block

/-- Settles O46: by induction on the lines, a block between two lines has stored the rows decoded so far; the first
error rejects it, and the end makes the rows its result. -/
theorem blocksDecodeAsDecode : Obligations.BlocksDecodeAsDecode := by
  intro syms s hs hw hh
  refine ⟨_, runInstrs_decodeSyms_block syms hs, finishBlock_state _, ?_⟩
  cases hlines : decodeLines (symbolLines syms) with
  | error e => exact block_error s.dec hw hh hlines
  | ok rows =>
    have haccepted := block_accepted s.dec hw hh hlines
    exact ⟨haccepted.status, haccepted.h, haccepted.w, fun y x row hy hx => exec_gridRd_accepted haccepted hy hx⟩

end Sys2Proof.Machine

namespace Sys2Proof.Machine

open Sys2Proof.Spec

/-! ## The symbols of the text of a grid (R112) -/

theorem tokenize_rowMarker (t : List U32) : tokenize (Config.rowMarker ++ t) = .brk :: .brk :: tokenize t := by
  rw [Config.rowMarker, List.append_assoc, tokenize_rowTag, List.singleton_append, tokenize_newline]

/-- A glyph is neither a row boundary nor the start of one. -/
theorem tokenize_glyph {c : U32} (hc : inGlyph c = true) (t : List U32) :
    tokenize (c :: t) = .char c :: tokenize t := by
  obtain ⟨hle, -⟩ := (inGlyph_iff c).1 hc
  refine tokenize_char (fun htag => ?_) fun hnl => ?_
  · obtain ⟨t', ht'⟩ := htag
    injection ht' with hhead
    rw [← hhead] at hle
    exact absurd hle (by decide)
  · rw [hnl] at hle
    exact absurd hle (by decide)

theorem tokenize_glyphs {cs : List U32} (hcs : ∀ c ∈ cs, inGlyph c = true) (t : List U32) :
    tokenize (cs ++ t) = cs.map .char ++ tokenize t := by
  induction cs with
  | nil => rfl
  | cons c cs ih =>
    rw [List.cons_append, tokenize_glyph (hcs c List.mem_cons_self), ih fun c hc => hcs c (List.mem_cons_of_mem _ hc)]
    rfl

/-- The glyphs of a row as code points (R51). -/
def rowText (row : List Pixel) : List U32 := row.flatMap pixelText

/-- The glyphs of a pixel, as the model packs them. -/
theorem pixelText_eq (p : Pixel) :
    pixelText p = [(packGlyph (quantize p.r) (quantize p.g)).setWidth 32,
      (packGlyph (quantize p.b) (quantize (subcarrier p.r p.g p.b p.a))).setWidth 32] := by
  rw [pixelText, ← setWidth_eq_ofNat (encodePixel_fst_toNat p.r p.g p.b p.a),
    ← setWidth_eq_ofNat (encodePixel_snd_toNat p.r p.g p.b p.a)]
  rfl

theorem inGlyph_rowText {row : List Pixel} : ∀ c ∈ rowText row, inGlyph c = true := by
  intro c hc
  obtain ⟨p, -, hc⟩ := List.mem_flatMap.1 hc
  rw [pixelText_eq, List.mem_pair] at hc
  obtain rfl | rfl := hc <;> exact inGlyph_packGlyph _ _

theorem length_rowText (row : List Pixel) : (rowText row).length = 2 * row.length := by
  rw [rowText, List.length_flatMap]
  simp [pixelText, Nat.mul_comm]

/-- The symbols of the text of a grid: two boundaries before each row, for the tag and the newline of its marker. -/
def textSymbols (rows : List (List Pixel)) : List InSymbol :=
  rows.flatMap fun row => .brk :: .brk :: (rowText row).map .char

theorem textSymbols_cons (row : List Pixel) (rows : List (List Pixel)) :
    textSymbols (row :: rows) = .brk :: .brk :: ((rowText row).map .char ++ textSymbols rows) := rfl

theorem tokenize_text (rows : List (List Pixel)) :
    tokenize (rows.flatMap fun row => Config.rowMarker ++ rowText row) = textSymbols rows := by
  induction rows with
  | nil => rfl
  | cons row rows ih =>
    rw [List.flatMap_cons, List.append_assoc, tokenize_rowMarker, tokenize_glyphs inGlyph_rowText, ih, textSymbols_cons]

/-! ## Its lines and its rows (R104, R113) -/

theorem symbolLines_chars (cs : List U32) {t : List InSymbol} {l : List U32} {ls : List (List U32)}
    (h : symbolLines t = l :: ls) : symbolLines (cs.map .char ++ t) = (cs ++ l) :: ls := by
  induction cs with
  | nil => exact h
  | cons c cs ih => exact symbolLines_char c ih

theorem symbolLines_textSymbols (rows : List (List Pixel)) :
    symbolLines (textSymbols rows) = [] :: rows.flatMap fun row => [[], rowText row] := by
  induction rows with
  | nil => rfl
  | cons row rows ih =>
    have hrow := symbolLines_chars (rowText row) ih
    rw [List.append_nil] at hrow
    rw [textSymbols_cons, symbolLines, symbolLines, hrow]
    rfl

/-- What the decoder makes of a pixel: its colours through the quantizer, the subcarrier dropped (R72, R114). -/
def keptCell (p : Pixel) : U32 := decodedCell (quantize p.r) (quantize p.g) (quantize p.b)

theorem decodeRow_rowText (row : List Pixel) : decodeRow (rowText row) = .ok (row.map keptCell) := by
  induction row with
  | nil => rfl
  | cons p row ih =>
    have htext : rowText (p :: row) = pixelText p ++ rowText row := rfl
    rw [htext, pixelText_eq]
    obtain ⟨nr, ng, nb, n, hc, hc', heq⟩ | ⟨hnone, -⟩ := decodeRow_pair
      ((packGlyph (quantize p.r) (quantize p.g)).setWidth 32)
      ((packGlyph (quantize p.b) (quantize (subcarrier p.r p.g p.b p.a))).setWidth 32) (rowText row)
    · rw [unpackGlyph_packGlyph] at hc hc'
      cases hc
      cases hc'
      exact heq.trans (by rw [ih]; rfl)
    · rw [unpackGlyph_packGlyph, unpackGlyph_packGlyph] at hnone
      obtain h | h := hnone <;> cases h

theorem mapM_decodeRow_rowText (rows : List (List Pixel)) :
    (rows.map rowText).mapM decodeRow = .ok (rows.map (List.map keptCell)) := by
  induction rows with
  | nil => rfl
  | cons row rows ih => rw [List.map_cons, List.mapM_cons, decodeRow_rowText, ih]; rfl

theorem keptCell_toNat (p : Pixel) :
    (keptCell p).toNat = pixN (p.r.toNat &&& 0x78) (p.g.toNat &&& 0x78) (p.b.toNat &&& 0x78) 255 := by
  rw [keptCell, decodedCell, pix_toNat, dequantize_quantize, dequantize_quantize, dequantize_quantize]
  rfl

section Grid

variable {w : Nat} {rows : List (List Pixel)} (hlen : ∀ row ∈ rows, row.length = w)
include hlen

theorem length_of_mem_textLines : ∀ l ∈ symbolLines (textSymbols rows), l.length / 2 ≤ w := by
  intro l hl
  rw [symbolLines_textSymbols, List.mem_cons, List.mem_flatMap] at hl
  obtain rfl | ⟨row, hrow, hl⟩ := hl
  · exact Nat.zero_le _
  · obtain rfl | rfl := List.mem_pair.1 hl
    · exact Nat.zero_le _
    · rw [length_rowText, hlen row hrow]
      omega

/-- The rows of the text are those of the grid: its other lines are empty. -/
theorem nonemptyLines_textSymbols (hw : 1 ≤ w) : nonemptyLines (symbolLines (textSymbols rows)) = rows.map rowText := by
  have hkeep : ∀ row ∈ rows, nonemptyLines [[], rowText row] = [rowText row] := fun row hrow => by
    have hne : rowText row ≠ [] := List.ne_nil_of_length_pos (by rw [length_rowText, hlen row hrow]; omega)
    simp [nonemptyLines, hne]
  rw [symbolLines_textSymbols]
  calc nonemptyLines ([] :: rows.flatMap fun row => [[], rowText row])
    _ = rows.flatMap fun row => nonemptyLines [[], rowText row] := List.filter_flatMap
    _ = rows.flatMap fun row => [rowText row] := List.flatMap_congr hkeep
    _ = rows.map rowText := List.flatMap_pure_eq_map rowText rows

theorem decodeLines_textSymbols (hw : 1 ≤ w) (hne : rows ≠ []) :
    decodeLines (symbolLines (textSymbols rows)) = .ok (rows.map (List.map keptCell)) := by
  refine decodeLines_of_mapM ?_ (by simpa using hne)
  rw [nonemptyLines_textSymbols hlen hw, mapM_decodeRow_rowText]

theorem widest_kept (hne : rows ≠ []) : ((rows.map (List.map keptCell)).map List.length).foldr max 0 = w := by
  have hlengths : ∀ n ∈ (rows.map (List.map keptCell)).map List.length, n = w := by
    simp only [List.map_map, List.mem_map, Function.comp_apply, List.length_map]
    rintro n ⟨row, hrow, rfl⟩
    exact hlen row hrow
  obtain ⟨row, hrow⟩ := List.exists_mem_of_ne_nil rows hne
  have hmem : w ∈ (rows.map (List.map keptCell)).map List.length :=
    List.mem_map.2 ⟨_, List.mem_map_of_mem hrow, by rw [List.length_map, hlen row hrow]⟩
  exact le_antisymm (List.max_le_of_forall_le _ _ fun n hn => (hlengths n hn).le) (List.le_max_of_le hmem le_rfl)

end Grid

/-- Settles O47: the text of the image is a block whose rows are the grid's, each of as many glyph pairs as pixels. -/
theorem decodeOfEncodeKeepsBitsSixToThree : Obligations.DecodeOfEncodeKeepsBitsSixToThree := by
  intro w rows s hs hw hmaxW hh hmaxH hlen
  have hne : rows ≠ [] := List.length_pos_iff.1 hh
  have hW := s.maxW.isLt
  have hH := s.maxH.isLt
  obtain ⟨e, -, hrun⟩ := runInstrs_encodeGrid (w := w) (rows := rows) (by omega) (by omega) hlen hs.1
  have htext :
      decodeText (serialize Config.rowMarker (outSymbols (newResponses s (encoded e (imageSymbols w rows) s)))) =
        decodeSyms (textSymbols rows) := by
    rw [newResponses_encoded, outSymbols_map_symbolResponse, serialize_imageSymbols, if_neg (by omega), ← tokenize_text]
    rfl
  have hblock := runInstrs_decodeSyms_block (textSymbols rows) (s := encoded e (imageSymbols w rows) s) hs.2
  rw [← htext] at hblock
  have haccepted : (s.dec.block s.maxW s.maxH (textSymbols rows)).Accepted (rows.map (List.map keptCell)) :=
    block_accepted s.dec (fun l hl => (length_of_mem_textLines hlen l hl).trans hmaxW)
      (by rw [nonemptyLines_textSymbols hlen hw, List.length_map]; exact hmaxH) (decodeLines_textSymbols hlen hw hne)
  have hwidth := haccepted.w.trans (widest_kept hlen hne)
  refine ⟨_, _, hrun, hblock, haccepted.state, haccepted.status, hwidth, ?_, rfl, fun y x row p hy hx => ?_⟩
  · exact haccepted.h.trans (List.length_map _)
  · have hrow : row.length = w := hlen row (List.mem_of_getElem? hy)
    have hxlt : x < (s.dec.block s.maxW s.maxH (textSymbols rows)).w.toNat := by
      rw [hwidth, ← hrow]
      exact (List.getElem?_eq_some_iff.1 hx).1
    have hy' : (rows.map (List.map keptCell))[y]? = some (row.map keptCell) := by rw [List.getElem?_map, hy]; rfl
    have hcell : ((row.map keptCell)[x]?).getD 0#32 = keptCell p := by rw [List.getElem?_map, hx]; rfl
    refine ⟨?_, ?_⟩
    · have hstored := (haccepted.stores y _ hy').1
      rwa [List.length_map, hrow] at hstored
    · rw [exec_gridRd_accepted haccepted hy' hxlt, hcell, keptCell_toNat]

end Sys2Proof.Machine
